-- ==== Sys2Proof/Word.lean ====
section
/-! DEFINITION. The words of the block: the 40-bit command word, the byte sent on the wire, and the level of a line. -/

namespace Sys2Proof

/-- A command word `cmd[39:0]` (30_encoding.md R45). -/
abbrev CmdWord := BitVec 40

/-- An 8-bit unit value, or one byte of a serialised command word (20_memory.md R36). -/
abbrev Byte := BitVec 8

/-- The level of a line: `true` is 1 (high), `false` is 0 (low) (00_scope.md, Glossary: Level). -/
abbrev Level := Bool

end Sys2Proof
end

