-- ==== Sys2Proof/Config.lean ====
section
/-! DEFINITION. What an implementation fixes: the parameter record of 00_scope.md R7, the constants of R8,
and the one free value of the model, the level a sample returns. -/

namespace Sys2Proof

/-- Which line identifiers are a valid pin assignment: the parameter `PIN_VALID` of 00_scope.md R7, a predicate on
signed 16-bit integers, as plain data. `oneOf` reaches every predicate on sixteen bits, since it lists the identifiers
that satisfy it; `nonNegative` is the spec's default. DESIGN CHOICE (log 7): the form. -/
inductive PinValid where
  | nonNegative
  | oneOf (ids : List (BitVec 16))
deriving DecidableEq, Repr

/-- Where the duration of one hold slot comes from (40_bus_primitives.md R66): one of the timing constants, or a number
of its own (91_not_in_source.md N7: a model that sets a slot to 0 matches the document's literal text). -/
inductive HoldTime where
  | before
  | after
  | total
  | poll
  | fixed (micros : Nat)
deriving DecidableEq, Repr

/-- The hold slots of 40_bus_primitives.md R66, each with the source of its duration. -/
structure Holds where
  s1 : HoldTime
  s2 : HoldTime
  s3 : HoldTime
  p1 : HoldTime
  p2 : HoldTime
  p3 : HoldTime
  b1 : HoldTime
  b2 : HoldTime
  b3 : HoldTime
  a1 : HoldTime
  a2 : HoldTime
  poll : HoldTime
  a3 : HoldTime
  a4 : HoldTime
deriving DecidableEq, Repr

/-- The parameter record of 00_scope.md R7. `State` carries one, so that every statement about every state is about
every parameter record (log 7). -/
structure Params where
  busAddr       : BitVec 7
  regSelect     : Byte
  ackLevel      : Level
  ackPollMax    : Nat
  tPoll         : Nat
  tBefore       : Nat
  tAfter        : Nat
  tTotal        : Nat
  holds         : Holds
  tCommitMs     : Nat
  noackSdaLevel : Level
  expCmd        : Level
  expUnlock     : Level
  k             : Nat
  pinValid      : PinValid
deriving DecidableEq, Repr

/-- The constraint column of 00_scope.md R7 (also 70_reset_and_hazards.md R153). The bounds of `BUS_ADDR`, `REG_SELECT`
and the levels are in their types. -/
abbrev Params.Admissible (p : Params) : Prop :=
  1 ≤ p.ackPollMax ∧ 1 ≤ p.tPoll ∧
  1 ≤ p.tBefore ∧ p.tBefore < p.tAfter ∧ p.tAfter ≤ 9 ∧
  p.tBefore + p.tAfter ≤ p.tTotal ∧ p.tTotal ≤ 9 ∧
  7 ≤ p.tCommitMs ∧ 1 ≤ p.k

/-- `CODE_MAX` (00_scope.md R8). -/
abbrev Config.codeMax : Nat := 4095

/-- `I_MAX_MA`, the full-scale current in mA (00_scope.md R8). -/
abbrev Config.iMaxMa : Nat := 25

/-- `I_CAL_LO_MA` (00_scope.md R8). -/
abbrev Config.iCalLoMa : Nat := 4

/-- `I_CAL_HI_MA` (00_scope.md R8). -/
abbrev Config.iCalHiMa : Nat := 20

/-- `I_CAL_SPAN_MA`, the divisor of the interpolation (00_scope.md R8). -/
abbrev Config.iCalSpanMa : Nat := 16

/-- `HDR`, the header of persist phases 1 and 5a, sent as 3 bits (00_scope.md R8). -/
abbrev Config.hdr : Byte := 0x02

/-- `P_ADDR`, the first byte of persist phases 2 and 5b (00_scope.md R8). -/
abbrev Config.pAddr : Byte := 0x10

/-- `P_CMD1`, the second byte of persist phase 2 (00_scope.md R8). -/
abbrev Config.pCmd1 : Byte := 0x03

/-- `P_CMD2`, the zero bytes of phase 3 and the second byte of phase 5b (00_scope.md R8). -/
abbrev Config.pCmd2 : Byte := 0x00

/-- `N_UNLOCK_ZERO`, how many zero bytes follow the address byte in persist phase 3 (00_scope.md R8). -/
abbrev Config.nUnlockZero : Nat := 8

/-- The level the environment returns to the `n`-th sample when no level was supplied from outside: a free value
(93_implementation_defined.md U10, "any value"; 10_state.md R25, "an unconstrained draw"). It has no body a proof could
see (log 2). -/
opaque Config.freeLevel : Nat → Level

end Sys2Proof
end

