-- ==== Sys2Proof/Machine/Defaults.lean ====
section
/-! DEFINITION. The default column of 00_scope.md R7 and the default slot assignment of 40_bus_primitives.md R66: the
parameter record in the reset state (log 8). -/

namespace Sys2Proof.Machine

/-- The default assignment of the constants to the hold slots (40_bus_primitives.md R66, decision D7). -/
def defaultHolds : Holds :=
  { s1 := .before, s2 := .after, s3 := .total
    p1 := .before, p2 := .total, p3 := .total
    b1 := .before, b2 := .total, b3 := .after
    a1 := .before, a2 := .after, poll := .poll, a3 := .before, a4 := .after }

/-- The default parameters (00_scope.md R7). DESIGN CHOICE (log 8): the spec gives them as the values of its test
vectors; several are unverified (93_implementation_defined.md G2 to G10). No statement rests on them. -/
def defaultParams : Params :=
  { busAddr := 0x58, regSelect := 0x02, ackLevel := false
    ackPollMax := 250, tPoll := 1, tBefore := 2, tAfter := 3, tTotal := 5
    holds := defaultHolds, tCommitMs := 10, noackSdaLevel := true
    expCmd := false, expUnlock := false, k := 1000, pinValid := .nonNegative }

end Sys2Proof.Machine
end

