-- ==== Sys2Proof/Syntax.lean ====
section
/-! DEFINITION. The commands: one constructor per row of spec/opcode_table.json (30_encoding.md R46 to R48). -/

namespace Sys2Proof

/-- The commands of 30_encoding.md R48, with their operands as R47 assembles them. The width of a unit is the number
of its bits (R47, `n = nm1 + 1`), not the field that encodes it; `Instr.WellFormed` bounds it. -/
inductive Instr where
  /-- INIT, format P: the two line identifiers, s16 each (42_device_commands.md R103). -/
  | init (lineScl lineSda : BitVec 16)
  /-- SETCAL, format K: the codes for 4 mA and 20 mA, u16 each (42_device_commands.md R104). -/
  | setcal (lo hi : BitVec 16)
  /-- WRCODE, format C: the code, u16 (42_device_commands.md R105). -/
  | wrcode (code : BitVec 16)
  /-- WRCUR, format I: the current, s32 in units of 1/K mA (42_device_commands.md R106). -/
  | wrcur (cur : BitVec 32)
  /-- PERSIST, format Z (42_device_commands.md R107). -/
  | persist
  /-- CVTC2I, format C: the code, u16 (41_conversion.md R95). -/
  | cvtc2i (code : BitVec 16)
  /-- CVTI2C, format I: the current, s32 (41_conversion.md R96). -/
  | cvti2c (cur : BitVec 32)
  /-- START, format Z (40_bus_primitives.md R67). -/
  | start
  /-- STOP, format Z (40_bus_primitives.md R68). -/
  | stop
  /-- XFER with `ack` = 1, format X: the data, the width in bits, the expected level (40_bus_primitives.md R70). -/
  | xferAck (data : Byte) (width : Nat) (exp : Level)
  /-- XFER with `ack` = 0, format X: the data and the width in bits (40_bus_primitives.md R70, R71). -/
  | xferNoack (data : Byte) (width : Nat)
  /-- ACKRD, format A: the expected level (40_bus_primitives.md R73). -/
  | ackrd (exp : Level)
deriving DecidableEq, Repr

end Sys2Proof
end

