-- ==== Sys2Proof/Machine/State.lean ====
section
/-! DEFINITION. What the block is: the state of 10_state.md R10, the input ports of R24, and the model's own fields;
the state right after reset; the reasons a step can stop. -/

namespace Sys2Proof.Machine

/-- The façade's state machine (10_state.md R11): UNINIT is 0, READY is 1. -/
inductive DevState where
  | uninit
  | ready
deriving DecidableEq, Repr

/-- The two lines (00_scope.md R6): clock and data. -/
inductive Line where
  | scl
  | sda
deriving DecidableEq, Repr

/-- The direction of a line (00_scope.md R6; 10_state.md R14, R15): input with pull-up is 0, output is 1. -/
inductive LineMode where
  | inPu
  | out
deriving DecidableEq, Repr

/-- The events of 00_scope.md R6. A sample carries the level the environment returned. -/
inductive Event where
  | mode (line : Line) (m : LineMode)
  | drive (line : Line) (v : Level)
  | sample (line : Line) (v : Level)
  | waitUs (n : Nat)
  | waitMs (n : Nat)
deriving DecidableEq, Repr

/-- One entry of the list a command in flight still has to do (10_state.md R21). The acknowledgment poll is a loop
(40_bus_primitives.md R76), so its entry stands until the loop ends. -/
inductive MicroOp where
  /-- Emit a mode, drive or wait event. -/
  | emit (e : Event)
  /-- `poll_cnt <- 0`, no event (40_bus_primitives.md R74). -/
  | clearPoll
  /-- At the head of the poll loop: sample, or leave by the bound (40_bus_primitives.md R76). -/
  | poll (exp : Level)
  /-- In the poll loop after a sample that did not match: wait and count (40_bus_primitives.md R76). -/
  | pollWait (exp : Level)
  /-- The final sample, whose level is the result of the read (40_bus_primitives.md R77). -/
  | finalSample
deriving DecidableEq, Repr

/-- A command in flight (10_state.md R21): `index` is "the index of the next event to emit"; `ack` is the level of the
last acknowledgment read (log 12). -/
structure Flight where
  cmd   : Instr
  index : Nat
  todo  : List MicroOp
  ack   : Level
deriving DecidableEq, Repr

/-- The sequencer position `seq` (10_state.md R21). -/
inductive Seq where
  | idle
  | running (f : Flight)
deriving DecidableEq, Repr

/-- The machine stops with a fault: never. "The block never raises an exception and never transfers control"
(60_exceptions.md R120); no constructor. -/
inductive Fault where
deriving DecidableEq, Repr

/-- The machine has no meaning for an instruction. -/
inductive Refusal where
  /-- Raised by an arm of exec for an instruction that has no meaning yet; every instruction has one, so by none. Safe. -/
  | notModelled (mnemonic : String)
deriving DecidableEq, Repr

/-- The block, its input ports, and the model's own fields. -/
structure State where
  /-- `st` (10_state.md R11). -/
  st : DevState
  /-- `busy` (10_state.md R12). -/
  busy : Bool
  /-- `pin_scl`, s16 (10_state.md R13). -/
  pinScl : BitVec 16
  /-- `pin_sda`, s16 (10_state.md R13). -/
  pinSda : BitVec 16
  /-- `scl_mode` (10_state.md R14). -/
  sclMode : LineMode
  /-- `scl_out` (10_state.md R14). -/
  sclOut : Level
  /-- `sda_mode` (10_state.md R15). -/
  sdaMode : LineMode
  /-- `sda_out` (10_state.md R15). -/
  sdaOut : Level
  /-- `cal_en` (10_state.md R16). -/
  calEn : Bool
  /-- `cal_lo`, u12 (10_state.md R17). -/
  calLo : BitVec 12
  /-- `cal_hi`, u12 (10_state.md R17). -/
  calHi : BitVec 12
  /-- `last_code`, u12 (10_state.md R18). -/
  lastCode : BitVec 12
  /-- `res`, u32 (10_state.md R19). -/
  res : BitVec 32
  /-- `poll_cnt` (10_state.md R20; a natural number, log 10). -/
  pollCnt : Nat
  /-- `seq` (10_state.md R21). -/
  seq : Seq
  /-- Input port `rst` (10_state.md R24, 70_reset_and_hazards.md R140; log 4). -/
  rst : Bool
  /-- Input ports `cmd` and `cmd_valid` (10_state.md R24): the words the host has still to present; the head is on the
  port, and nothing is valid when the list is empty (log 3). -/
  words : List CmdWord
  /-- Input port `sda_i` (10_state.md R24): the levels the environment returns to the samples to come, the next one
  first; when the list is empty a sample returns a free value (log 2). -/
  levels : List Level
  /-- How many samples have been answered: the model's own counter, read only to pick a fresh free value (log 2). -/
  draws : Nat
  /-- The events emitted so far, newest first (00_scope.md R6, 20_memory.md R41; log 11). -/
  trace : List Event
  /-- The parameter record (00_scope.md R7; log 7). No step writes it. -/
  params : Params
deriving DecidableEq, Repr

/-- The machine right after reset (10_state.md R10, R23; 70_reset_and_hazards.md R141): released lines with latches at
1, no pins bound, calibration off, idle; no word presented and no level supplied. -/
def State.reset : State :=
  { st := .uninit, busy := false, pinScl := -1, pinSda := -1
    sclMode := .inPu, sclOut := true, sdaMode := .inPu, sdaOut := true
    calEn := false, calLo := 0, calHi := 0, lastCode := 0, res := 0
    pollCnt := 0, seq := .idle, rst := false, words := [], levels := [], draws := 0
    trace := [], params := defaultParams }

end Sys2Proof.Machine
end

