-- ==== Sys2Proof/Machine/Operands.lean ====
section
/-! DEFINITION. How operands and parameters are read: signed identifiers and currents, the bits of a unit, the bytes of
the write frame, the durations of the hold slots (20_memory.md R32 to R35, 30_encoding.md R47, 40_bus_primitives.md
R66). -/

namespace Sys2Proof.Machine

/-- `PIN_VALID(id)` (00_scope.md R7, 10_state.md R13): the identifier is signed. -/
def pinOk (p : PinValid) (id : BitVec 16) : Bool :=
  match p with
  | .nonNegative => 0 ≤ id.toInt
  | .oneOf ids => ids.contains id

/-- The duration of a hold slot in microseconds (40_bus_primitives.md R66). -/
def holdMicros (p : Params) (h : HoldTime) : Nat :=
  match h with
  | .before => p.tBefore
  | .after => p.tAfter
  | .total => p.tTotal
  | .poll => p.tPoll
  | .fixed n => n

/-- The address byte: `BUS_ADDR` shifted left one with the write-direction bit 0 appended (20_memory.md R34). -/
def addrByte (p : Params) : Byte := p.busAddr ++ 0#1

/-- The first code byte: the low nibble of the code in the high nibble of the byte (20_memory.md R35). -/
def codeLowByte (c : BitVec 12) : Byte := c.extractLsb' 0 4 ++ 0#4

/-- The second code byte, `c[11:4]` (20_memory.md R35). -/
def codeHighByte (c : BitVec 12) : Byte := c.extractLsb' 4 8

/-- `code[11:0]` of a 16-bit operand. -/
def low12 (v : BitVec 16) : BitVec 12 := v.extractLsb' 0 12

/-- The bits of a unit of width `n` in the order they are sent: `data[n-1]` first, `data[0]` last (20_memory.md R32,
R33). -/
def unitBits (data : Byte) (n : Nat) : List Level :=
  match n with
  | 0 => []
  | m + 1 => data.getLsbD m :: unitBits data m

/-- A level as a result, zero-extended to 32 bits (30_encoding.md R57). -/
def levelResult (v : Level) : BitVec 32 := BitVec.ofNat 32 v.toNat

end Sys2Proof.Machine
end

