-- ==== Sys2Proof/Machine/Flags.lean ====
section
/-! DEFINITION. The decisions of 42_device_commands.md R108 that are tests on operands and status. The block has no
condition codes; these are all the flags it computes. -/

namespace Sys2Proof.Machine

/-- INIT's pin check: both identifiers are valid (42_device_commands.md R103). -/
def pinsOk (p : Params) (lineScl lineSda : BitVec 16) : Bool :=
  pinOk p.pinValid lineScl && pinOk p.pinValid lineSda

/-- SETCAL's acceptance: not (`lo >= hi` or `hi > 4095`), unsigned (42_device_commands.md R104). -/
def calOk (lo hi : BitVec 16) : Bool := lo.toNat < hi.toNat && hi.toNat ≤ Config.codeMax

/-- WRCODE's range check: not (`code > 4095`), unsigned (42_device_commands.md R105). -/
def codeOk (code : BitVec 16) : Bool := code.toNat ≤ Config.codeMax

/-- The calibrated path is taken for a clamped current (41_conversion.md R89). -/
def inBand (k : Nat) (calEn : Bool) (j : Nat) : Bool :=
  calEn && Config.iCalLoMa * k ≤ j && j ≤ Config.iCalHiMa * k

end Sys2Proof.Machine
end

