-- ==== Sys2Proof/Machine/Ops.lean ====
section
/-! DEFINITION. The shared operations: events, the ILLEGAL response, the four bus primitives as sub-sequences of every
command, the ports, and reset. The block has no memory and takes no exception; the ILLEGAL response (60_exceptions.md
R127) is the one thing it does instead of a command, and there is no return from it (R129). -/

namespace Sys2Proof.Machine

/-! ### Events (00_scope.md R6) -/

/-- Configure a line: `L_mode <- m`. The latch is untouched (10_state.md R15). -/
def setMode (line : Line) (m : LineMode) (s : State) : State :=
  match line with
  | .scl => { s with sclMode := m, trace := .mode .scl m :: s.trace }
  | .sda => { s with sdaMode := m, trace := .mode .sda m :: s.trace }

/-- Write a line's latch: `L_out <- v`. The mode is untouched (10_state.md R15). -/
def drive (line : Line) (v : Level) (s : State) : State :=
  match line with
  | .scl => { s with sclOut := v, trace := .drive .scl v :: s.trace }
  | .sda => { s with sdaOut := v, trace := .drive .sda v :: s.trace }

/-- Busy-wait microseconds: an inert event (00_scope.md R5). -/
def waitUs (n : Nat) (s : State) : State := { s with trace := .waitUs n :: s.trace }

/-- Busy-wait milliseconds: an inert event (00_scope.md R5). -/
def waitMs (n : Nat) (s : State) : State := { s with trace := .waitMs n :: s.trace }

/-- A hold slot (40_bus_primitives.md R66). -/
def hold (h : HoldTime) (s : State) : State := waitUs (holdMicros s.params h) s

/-- The level the environment returns to the next sample: the next supplied level, else a free value (log 2). -/
def nextLevel (s : State) : Level :=
  match s.levels with
  | v :: _ => v
  | [] => Config.freeLevel s.draws

/-- `Sample(SDA)`: no effect on the block's state (00_scope.md R6); the environment moves on to its next level. -/
def sampleSda (s : State) : State :=
  { s with levels := s.levels.tail, draws := s.draws + 1, trace := .sample .sda (nextLevel s) :: s.trace }

/-- The events emitted so far, in the order they were emitted (20_memory.md R41). -/
def emitted (s : State) : List Event := s.trace.reverse

/-! ### Results and the ILLEGAL response -/

/-- `res <- v` (10_state.md R19). -/
def setRes (v : BitVec 32) (s : State) : State := { s with res := v }

/-- The ILLEGAL response (60_exceptions.md R127): "emits no event, changes no state except `res <- 0xFFFFFFFF`". -/
def illegalResponse (s : State) : State := setRes 0xFFFFFFFF s

/-- The state guard of 42_device_commands.md R100: run the command in the state that executes it, otherwise answer with
the ILLEGAL response (log 5). -/
def guarded (need : DevState) (body : State → State) (s : State) : State :=
  if s.st = need then body s else illegalResponse s

/-! ### Bus primitives (file 40) -/

/-- START (40_bus_primitives.md R67), without the write of `res`. -/
def startCond (s : State) : State :=
  let s := drive .sda true s
  let s := drive .scl true s
  let s := hold s.params.holds.s1 s
  let s := drive .sda false s
  let s := hold s.params.holds.s2 s
  let s := drive .scl false s
  hold s.params.holds.s3 s

/-- STOP (40_bus_primitives.md R68), without the write of `res`. -/
def stopCond (s : State) : State :=
  let s := drive .sda false s
  let s := hold s.params.holds.p1 s
  let s := drive .scl true s
  let s := hold s.params.holds.p2 s
  let s := drive .sda true s
  hold s.params.holds.p3 s

/-- The bit cycle of one bit (40_bus_primitives.md R69). -/
def bitCycle (v : Level) (s : State) : State :=
  let s := drive .sda v s
  let s := hold s.params.holds.b1 s
  let s := drive .scl true s
  let s := hold s.params.holds.b2 s
  let s := drive .scl false s
  hold s.params.holds.b3 s

/-- The bit cycles of a list of bits, the first one first. -/
def sendBits (bits : List Level) (s : State) : State :=
  match bits with
  | [] => s
  | v :: rest => sendBits rest (bitCycle v s)

/-- The no-acknowledgment tail (40_bus_primitives.md R71). -/
def noAckTail (s : State) : State := drive .scl true (drive .sda s.params.noackSdaLevel s)

/-- The poll loop (40_bus_primitives.md R76): `fuel` bounds the iterations; `poll_cnt` is tested against the bound. -/
def pollLoop (exp : Level) (fuel : Nat) (s : State) : State :=
  match fuel with
  | 0 => s
  | n + 1 =>
    if s.pollCnt < s.params.ackPollMax then
      if nextLevel s = exp then sampleSda s
      else
        let s := hold s.params.holds.poll (sampleSda s)
        pollLoop exp n { s with pollCnt := s.pollCnt + 1 }
    else s

/-- The poll phase from its first sample: `poll_cnt <- 0`, then the loop (40_bus_primitives.md R74, R76). -/
def pollPhase (exp : Level) (s : State) : State :=
  pollLoop exp s.params.ackPollMax { s with pollCnt := 0 }

/-- The release phase (40_bus_primitives.md R75). -/
def releasePhase (s : State) : State :=
  let s := setMode .sda .inPu s
  let s := hold s.params.holds.a1 s
  let s := drive .scl true s
  hold s.params.holds.a2 s

/-- The restore phase (40_bus_primitives.md R78). -/
def restorePhase (s : State) : State :=
  let s := hold s.params.holds.a3 s
  let s := drive .scl false s
  let s := hold s.params.holds.a4 s
  setMode .sda .out s

/-- The acknowledgment read (40_bus_primitives.md R74): the level of the final sample, and the state after. -/
def ackRead (exp : Level) (s : State) : Level × State :=
  let s := pollPhase exp (releasePhase s)
  (nextLevel s, restorePhase (sampleSda s))

/-- A unit that ends with an acknowledgment read (40_bus_primitives.md R70, `ack` = 1). -/
def unitAck (data : Byte) (width : Nat) (exp : Level) (s : State) : Level × State :=
  ackRead exp (sendBits (unitBits data width) s)

/-- A unit that ends with the no-acknowledgment tail (40_bus_primitives.md R70, `ack` = 0). -/
def unitNoack (data : Byte) (width : Nat) (s : State) : State :=
  noAckTail (sendBits (unitBits data width) s)

/-- A byte whose acknowledgment level is discarded (42_device_commands.md R109). -/
def sendByteExp (v : Byte) (exp : Level) (s : State) : State := (unitAck v 8 exp s).2

/-- `SendByte(v)` (42_device_commands.md R101), its result discarded. -/
def sendByte (v : Byte) (s : State) : State := sendByteExp v s.params.ackLevel s

/-- Bytes one after another, each with the same expected level. -/
def sendBytesExp (vs : List Byte) (exp : Level) (s : State) : State :=
  match vs with
  | [] => s
  | v :: rest => sendBytesExp rest exp (sendByteExp v exp s)

/-- `WriteFrame(c)` (42_device_commands.md R101, 30_encoding.md R54). -/
def writeFrame (c : BitVec 12) (s : State) : State :=
  let s := startCond s
  let s := sendByte (addrByte s.params) s
  let s := sendByte s.params.regSelect s
  let s := sendByte (codeLowByte c) s
  let s := sendByte (codeHighByte c) s
  stopCond s

/-! ### Ports (10_state.md R24) and the line model (20_memory.md R40) -/

/-- Output port `cmd_ready`. -/
def cmdReady (s : State) : Bool := !s.busy

/-- Input port `cmd_valid`: a word is presented. -/
def cmdValid (s : State) : Bool := !s.words.isEmpty

/-- Output port `st` as its bit (10_state.md R11). -/
def stPort (s : State) : Bool := s.st = .ready

/-- Output port `scl_o`. -/
def sclO (s : State) : Level := s.sclOut

/-- Output port `scl_oe`. -/
def sclOe (s : State) : Bool := s.sclMode = .out

/-- Output port `sda_o`. -/
def sdaO (s : State) : Level := s.sdaOut

/-- Output port `sda_oe`. -/
def sdaOe (s : State) : Bool := s.sdaMode = .out

/-- The host presents a word: it goes to the port ahead of the words still to come. -/
def present (w : CmdWord) (s : State) : State := { s with words := w :: s.words }

/-- `rst` asserted (70_reset_and_hazards.md R140): every state element at its reset value, a command in flight
abandoned. The inputs, the parameters and the record of events are not elements of the block's state and stay (log 4). -/
def holdReset (s : State) : State :=
  { State.reset with
    rst := s.rst, words := s.words, levels := s.levels, draws := s.draws, trace := s.trace, params := s.params }

end Sys2Proof.Machine
end

