-- ==== Sys2Proof/Machine/Bus.lean ====
section
/-! DEFINITION. The bus primitives as commands (40_bus_primitives.md R65 to R81): each is executed only in READY
(42_device_commands.md R100), cannot fail (R80), and writes its result last. -/

namespace Sys2Proof.Machine

/-- START (40_bus_primitives.md R67): the start condition; `res <- 0`. -/
def execStart (s : State) : Host.Outcome State Fault Refusal :=
  .next (guarded .ready (fun s => setRes 0 (startCond s)) s)

/-- STOP (40_bus_primitives.md R68): the stop condition; `res <- 0`. -/
def execStop (s : State) : Host.Outcome State Fault Refusal :=
  .next (guarded .ready (fun s => setRes 0 (stopCond s)) s)

/-- XFER with `ack` = 1 (40_bus_primitives.md R70): the bits, then an acknowledgment read whose level is the result. -/
def execXferAck (data : Byte) (width : Nat) (exp : Level) (s : State) : Host.Outcome State Fault Refusal :=
  .next (guarded .ready (fun s => let r := unitAck data width exp s; setRes (levelResult r.1) r.2) s)

/-- XFER with `ack` = 0 (40_bus_primitives.md R70, R71): the bits, then the no-acknowledgment tail; `res <- 0`. -/
def execXferNoack (data : Byte) (width : Nat) (s : State) : Host.Outcome State Fault Refusal :=
  .next (guarded .ready (fun s => setRes 0 (unitNoack data width s)) s)

/-- ACKRD (40_bus_primitives.md R73): an acknowledgment read whose level is the result. -/
def execAckrd (exp : Level) (s : State) : Host.Outcome State Fault Refusal :=
  .next (guarded .ready (fun s => let r := ackRead exp s; setRes (levelResult r.1) r.2) s)

end Sys2Proof.Machine
end

