-- ==== Sys2Proof/Machine/Conversion.lean ====
section
/-! DEFINITION. The converter (41_conversion.md R85 to R98) and its two commands, CVTC2I and CVTI2C. A current is a
count of units of 1/K mA; all arithmetic is on natural numbers after the clamp (R98). -/

namespace Sys2Proof.Machine

/-- The clamp of a signed current to 0 to 25 mA (41_conversion.md R86). -/
def clampCurrent (k : Nat) (cur : Int) : Nat :=
  if cur < 0 then 0
  else if cur > (Config.iMaxMa * k : Nat) then Config.iMaxMa * k
  else cur.toNat

/-- Round-half-up division (41_conversion.md R87). -/
def rhu (num den : Nat) : Nat :=
  if num % den * 10 ≥ 5 * den then num / den + 1 else num / den

/-- `code_to_current` (41_conversion.md R88). -/
def codeToCurrent (k code : Nat) : Nat := rhu (code * Config.iMaxMa * k) Config.codeMax

/-- Direct scaling (41_conversion.md R90). -/
def directCode (k j : Nat) : Nat := rhu (j * Config.codeMax) (Config.iMaxMa * k)

/-- Calibrated interpolation (41_conversion.md R91), for `calLo < calHi` (log 14). -/
def calCode (k calLo calHi j : Nat) : Nat :=
  calLo + rhu ((j - Config.iCalLoMa * k) * (calHi - calLo)) (Config.iCalSpanMa * k)

/-- The code for a clamped current: the path selection of 41_conversion.md R89. -/
def codeOfClamped (s : State) (j : Nat) : Nat :=
  if inBand s.params.k s.calEn j then calCode s.params.k s.calLo.toNat s.calHi.toNat j
  else directCode s.params.k j

/-- Current to code (41_conversion.md R86, R89): clamp, then select the path. -/
def currentToCode (s : State) (cur : BitVec 32) : Nat :=
  codeOfClamped s (clampCurrent s.params.k cur.toInt)

/-- The current of a 12-bit code as a 32-bit result (41_conversion.md R88, 30_encoding.md R57; log 13). -/
def currentResult (s : State) (c : BitVec 12) : BitVec 32 :=
  BitVec.ofNat 32 (codeToCurrent s.params.k c.toNat)

/-- CVTC2I (41_conversion.md R95): the operand masked to 12 bits, in either state, `res` only. -/
def execCvtc2i (code : BitVec 16) (s : State) : Host.Outcome State Fault Refusal :=
  .next (setRes (currentResult s (low12 code)) s)

/-- CVTI2C (41_conversion.md R96): in either state, `res` only. -/
def execCvti2c (cur : BitVec 32) (s : State) : Host.Outcome State Fault Refusal :=
  .next (setRes (BitVec.ofNat 32 (currentToCode s cur)) s)

end Sys2Proof.Machine
end

