-- ==== Sys2Proof/Machine/Device.lean ====
section
/-! DEFINITION. The device commands INIT, SETCAL, WRCODE, WRCUR and PERSIST (42_device_commands.md R103 to R107). -/

namespace Sys2Proof.Machine

/-! ### INIT -/

/-- `pin_scl` and `pin_sda` take the operands (42_device_commands.md R103). -/
def bindPins (lineScl lineSda : BitVec 16) (s : State) : State := { s with pinScl := lineScl, pinSda := lineSda }

/-- The presence check (42_device_commands.md R103, 30_encoding.md R55): both lines to output mode, START, the address
byte with its acknowledgment read, STOP in both outcomes. The level returned, and the state after. -/
def presenceCheck (s : State) : Level × State :=
  let s := setMode .sda .out (setMode .scl .out s)
  let s := startCond s
  let r := unitAck (addrByte s.params) 8 s.params.ackLevel s
  (r.1, stopCond r.2)

/-- What the level of the presence check decides (42_device_commands.md R103): READY and 0, or 2 (60_exceptions.md
R122). -/
def presenceResult (r : Level) (s : State) : State :=
  if r = s.params.ackLevel then { s with st := .ready, res := 0 } else setRes 2 s

/-- INIT in UNINIT: the pin check comes first (60_exceptions.md R121, R126), then the presence check. -/
def initBody (lineScl lineSda : BitVec 16) (s : State) : State :=
  if pinsOk s.params lineScl lineSda then
    let r := presenceCheck (bindPins lineScl lineSda s)
    presenceResult r.1 r.2
  else setRes 1 s

/-- INIT (42_device_commands.md R103), executed only in UNINIT (R100). -/
def execInit (lineScl lineSda : BitVec 16) (s : State) : Host.Outcome State Fault Refusal :=
  .next (guarded .uninit (initBody lineScl lineSda) s)

/-! ### SETCAL -/

/-- SETCAL (42_device_commands.md R104), in either state: an accepted pair is stored and calibration is on; a rejected
one changes `res` only (60_exceptions.md R123). -/
def execSetcal (lo hi : BitVec 16) (s : State) : Host.Outcome State Fault Refusal :=
  .next (if calOk lo hi then { s with calLo := low12 lo, calHi := low12 hi, calEn := true, res := 0 } else setRes 1 s)

/-! ### WRCODE and WRCUR -/

/-- `last_code <- c`, then the write frame (42_device_commands.md R105, R106). -/
def writeCode (c : BitVec 12) (s : State) : State := writeFrame c { s with lastCode := c }

/-- WRCODE in READY: out of range, the current of the unchanged `last_code` (60_exceptions.md R124); in range, the
frame and the current of the code. -/
def wrcodeBody (code : BitVec 16) (s : State) : State :=
  if codeOk code then setRes (currentResult s (low12 code)) (writeCode (low12 code) s)
  else setRes (currentResult s s.lastCode) s

/-- WRCODE (42_device_commands.md R105), executed only in READY (R100). -/
def execWrcode (code : BitVec 16) (s : State) : Host.Outcome State Fault Refusal :=
  .next (guarded .ready (wrcodeBody code) s)

/-- The 12-bit code of a current; the mask changes nothing (41_conversion.md R92). -/
def wrcurCode (cur : BitVec 32) (s : State) : BitVec 12 := BitVec.ofNat 12 (currentToCode s cur)

/-- WRCUR (42_device_commands.md R106), executed only in READY (R100): convert, write the code, return the code. -/
def execWrcur (cur : BitVec 32) (s : State) : Host.Outcome State Fault Refusal :=
  .next (guarded .ready
    (fun s => setRes ((wrcurCode cur s).setWidth 32) (writeCode (wrcurCode cur s) s)) s)

/-! ### PERSIST -/

/-- Phases 1 and 5a: the 3-bit header with acknowledgment skipped, in its own frame (30_encoding.md R56). -/
def headerFrame (s : State) : State := stopCond (unitNoack Config.hdr 3 (startCond s))

/-- A frame of bytes that each end with an acknowledgment read, results discarded (30_encoding.md R56). -/
def bytesFrame (vs : List Byte) (exp : Level) (s : State) : State := stopCond (sendBytesExp vs exp (startCond s))

/-- The nine bytes of phase 3 (42_device_commands.md R107). -/
def unlockBytes (p : Params) : List Byte := addrByte p :: List.replicate Config.nUnlockZero Config.pCmd2

/-- The phases 1, 2, 3, 4, 5a, 5b (42_device_commands.md R107). -/
def persistPhases (s : State) : State :=
  let s := headerFrame s
  let s := bytesFrame [Config.pAddr, Config.pCmd1] s.params.expCmd s
  let s := bytesFrame (unlockBytes s.params) s.params.expUnlock s
  let s := waitMs s.params.tCommitMs s
  let s := headerFrame s
  bytesFrame [Config.pAddr, Config.pCmd2] s.params.expCmd s

/-- PERSIST (42_device_commands.md R107), executed only in READY (R100): "fire-and-forget", `res <- 0`. -/
def execPersist (s : State) : Host.Outcome State Fault Refusal :=
  .next (guarded .ready (fun s => setRes 0 (persistPhases s)) s)

end Sys2Proof.Machine
end

