-- ==== Sys2Proof/Machine/Dispatch.lean ====
section
/-! DEFINITION. One arm per command: the meaning of each, called by its full name. -/

namespace Sys2Proof.Machine

def exec (i : Instr) (s : State) : Host.Outcome State Fault Refusal :=
  match i with
  | .init lineScl lineSda => Sys2Proof.Machine.execInit lineScl lineSda s
  | .setcal lo hi => Sys2Proof.Machine.execSetcal lo hi s
  | .wrcode code => Sys2Proof.Machine.execWrcode code s
  | .wrcur cur => Sys2Proof.Machine.execWrcur cur s
  | .persist => Sys2Proof.Machine.execPersist s
  | .cvtc2i code => Sys2Proof.Machine.execCvtc2i code s
  | .cvti2c cur => Sys2Proof.Machine.execCvti2c cur s
  | .start => Sys2Proof.Machine.execStart s
  | .stop => Sys2Proof.Machine.execStop s
  | .xferAck data width exp => Sys2Proof.Machine.execXferAck data width exp s
  | .xferNoack data width => Sys2Proof.Machine.execXferNoack data width s
  | .ackrd exp => Sys2Proof.Machine.execAckrd exp s

end Sys2Proof.Machine
end

