-- ==== Sys2Proof/WellFormed.lean ====
section
/-! DEFINITION. Which commands a command word can spell: the one operand whose type is wider than its field is the
width of a unit (30_encoding.md R47: "Width 0 and widths above 8 cannot be encoded"). -/

namespace Sys2Proof

/-- A unit has 1 to 8 bits (30_encoding.md R47, 20_memory.md R38). -/
def widthOk (width : Nat) : Bool := 1 ≤ width && width ≤ 8

/-- The command can be encoded. Every operand but a unit's width has the width of its field by its type. -/
def Instr.wellFormed (i : Instr) : Bool :=
  match i with
  | .init _ _ => true
  | .setcal _ _ => true
  | .wrcode _ => true
  | .wrcur _ => true
  | .persist => true
  | .cvtc2i _ => true
  | .cvti2c _ => true
  | .start => true
  | .stop => true
  | .xferAck _ width _ => widthOk width
  | .xferNoack _ width => widthOk width
  | .ackrd _ => true

/-- The check as a proposition. -/
abbrev Instr.WellFormed (i : Instr) : Prop := i.wellFormed = true

end Sys2Proof
end

