-- ==== Sys2Proof/Decode.lean ====
section
/-! DEFINITION. From command words to commands and back (30_encoding.md R45 to R49, 20_memory.md R36), and the opcode
table of 30_encoding.md R48 as rows of mask and match. The decoder reads fields; the rows are written out on their own,
so that their agreement can be stated. -/

namespace Sys2Proof

/-! ### The fields of a command word (30_encoding.md R45, R46) -/

/-- `op = cmd[39:32]`. -/
def opField (w : CmdWord) : Byte := w.extractLsb' 32 8

/-- `a = cmd[31:16]`. -/
def aField (w : CmdWord) : BitVec 16 := w.extractLsb' 16 16

/-- `b = cmd[15:0]`. -/
def bField (w : CmdWord) : BitVec 16 := w.extractLsb' 0 16

/-- `cur`, formed of `a` and `b` together (30_encoding.md R47). -/
def curField (w : CmdWord) : BitVec 32 := w.extractLsb' 0 32

/-- Format X, `a[9]`; also format A. -/
def expField (w : CmdWord) : Level := (aField w).getLsbD 9

/-- Format X, `a[8]`. -/
def ackField (w : CmdWord) : Bool := (aField w).getLsbD 8

/-- Format X, `n = nm1 + 1` with `nm1 = a[2:0]` (30_encoding.md R47). -/
def widthField (w : CmdWord) : Nat := ((aField w).extractLsb' 0 3).toNat + 1

/-- Format X, `data = b[7:0]`. -/
def dataField (w : CmdWord) : Byte := (bField w).extractLsb' 0 8

/-- Format Z: every bit of `a` and `b` is 0. -/
def zeroOkZ (w : CmdWord) : Bool := aField w = 0 && bField w = 0

/-- Format C: every bit of `a` is 0. -/
def zeroOkC (w : CmdWord) : Bool := aField w = 0

/-- Format X: `a[15:10]`, `a[7:3]` and `b[15:8]` are 0, and `a[9]` is 0 when `a[8]` is 0 (30_encoding.md R49). -/
def zeroOkX (w : CmdWord) : Bool :=
  (aField w).extractLsb' 10 6 = 0 && (aField w).extractLsb' 3 5 = 0 && (bField w).extractLsb' 8 8 = 0 &&
    (ackField w || !expField w)

/-- Format A: every bit of `a` and `b` but `a[9]` is 0. -/
def zeroOkA (w : CmdWord) : Bool :=
  (aField w).extractLsb' 10 6 = 0 && (aField w).extractLsb' 0 9 = 0 && bField w = 0

/-! ### The decoder -/

/-- Why a word, or a sequence of bytes, is no command. -/
inductive DecodeError where
  /-- 30_encoding.md R49 (a): `op` is not assigned. -/
  | unassignedOp (op : Byte)
  /-- 30_encoding.md R49 (b): `op` is assigned and a reserved-zero bit of its format is 1. -/
  | reservedBits (op : Byte)
  /-- Fewer than five bytes: no whole command word (30_encoding.md R51: one command length). -/
  | truncated
deriving DecidableEq, Repr

/-- `i` if the reserved bits of the word's format are zero. -/
def ifZero (ok : Bool) (w : CmdWord) (i : Instr) : Except DecodeError Instr :=
  if ok then .ok i else .error (.reservedBits (opField w))

/-- The command a word spells: "A decoder reads `op`, selects the format of rule R46 from the opcode map of rule R48,
checks the reserved bits of that format (rule R49) and assembles the operands (rule R47)" (30_encoding.md R45). -/
def decodeWord (w : CmdWord) : Except DecodeError Instr :=
  if opField w = 0x01 then .ok (.init (aField w) (bField w))
  else if opField w = 0x02 then .ok (.setcal (aField w) (bField w))
  else if opField w = 0x03 then ifZero (zeroOkC w) w (.wrcode (bField w))
  else if opField w = 0x04 then .ok (.wrcur (curField w))
  else if opField w = 0x05 then ifZero (zeroOkZ w) w .persist
  else if opField w = 0x08 then ifZero (zeroOkC w) w (.cvtc2i (bField w))
  else if opField w = 0x09 then .ok (.cvti2c (curField w))
  else if opField w = 0x10 then ifZero (zeroOkZ w) w .start
  else if opField w = 0x11 then ifZero (zeroOkZ w) w .stop
  else if opField w = 0x12 then
    ifZero (zeroOkX w) w
      (if ackField w then .xferAck (dataField w) (widthField w) (expField w)
       else .xferNoack (dataField w) (widthField w))
  else if opField w = 0x13 then ifZero (zeroOkA w) w (.ackrd (expField w))
  else .error (.unassignedOp (opField w))

/-- The five bytes of a serialised word, the byte that holds `cmd[39:32]` first (20_memory.md R36). -/
def bytesOfWord (w : CmdWord) : List Byte :=
  [w.extractLsb' 32 8, w.extractLsb' 24 8, w.extractLsb' 16 8, w.extractLsb' 8 8, w.extractLsb' 0 8]

/-- The word of five bytes, the opcode byte first (20_memory.md R36). -/
def wordOfBytes (b4 b3 b2 b1 b0 : Byte) : CmdWord := b4 ++ b3 ++ b2 ++ b1 ++ b0

/-- Decode the first five bytes and give back the rest. Total on any bytes. -/
def decodeBytes (bytes : List Byte) : Except DecodeError (Instr × List Byte) :=
  match bytes with
  | b4 :: b3 :: b2 :: b1 :: b0 :: rest =>
    match decodeWord (wordOfBytes b4 b3 b2 b1 b0) with
    | .ok i => .ok (i, rest)
    | .error e => .error e
  | _ => .error .truncated

/-- The command whose word has the bits `w`, bit 0 the least significant bit of the 40-bit word, bits above `nbits`
zero. The word is laid out as bytes (20_memory.md R36) and given to the decoder. -/
def decodeTableWord (nbits w : Nat) : Option Instr :=
  if w % 2 ^ nbits < 2 ^ 40 then
    match decodeBytes (bytesOfWord (BitVec.ofNat 40 (w % 2 ^ nbits))) with
    | .ok (i, []) => some i
    | .ok (_, _ :: _) => none
    | .error _ => none
  else none

/-! ### The encoder -/

/-- A word of its three fields (30_encoding.md R45). -/
def wordOfFields (op : Byte) (a b : BitVec 16) : CmdWord := op ++ a ++ b

/-- A word of `op` and a 32-bit operand (format I, 30_encoding.md R46). -/
def wordOfCur (op : Byte) (cur : BitVec 32) : CmdWord := op ++ cur

/-- The `a` field of format X: `a[9] = exp`, `a[8] = ack`, `a[2:0] = nm1` (30_encoding.md R46). -/
def aOfUnit (width : Nat) (ack : Bool) (exp : Level) : BitVec 16 :=
  0#6 ++ BitVec.ofBool exp ++ BitVec.ofBool ack ++ 0#5 ++ BitVec.ofNat 3 (width - 1)

/-- The `a` field of format A: `a[9] = exp` (30_encoding.md R46). -/
def aOfExp (exp : Level) : BitVec 16 := 0#6 ++ BitVec.ofBool exp ++ 0#9

/-- The word of a command (30_encoding.md R46 to R48). -/
def encode (i : Instr) : CmdWord :=
  match i with
  | .init lineScl lineSda => wordOfFields 0x01 lineScl lineSda
  | .setcal lo hi => wordOfFields 0x02 lo hi
  | .wrcode code => wordOfFields 0x03 0 code
  | .wrcur cur => wordOfCur 0x04 cur
  | .persist => wordOfFields 0x05 0 0
  | .cvtc2i code => wordOfFields 0x08 0 code
  | .cvti2c cur => wordOfCur 0x09 cur
  | .start => wordOfFields 0x10 0 0
  | .stop => wordOfFields 0x11 0 0
  | .xferAck data width exp => wordOfFields 0x12 (aOfUnit width true exp) (0#8 ++ data)
  | .xferNoack data width => wordOfFields 0x12 (aOfUnit width false false) (0#8 ++ data)
  | .ackrd exp => wordOfFields 0x13 (aOfExp exp) 0

/-- The bytes of a command, the opcode byte first. -/
def encodeBytes (i : Instr) : List Byte := bytesOfWord (encode i)

/-! ### The opcode table (30_encoding.md R48) -/

/-- One row: "a word `w` spells the command when `w & mask == match`". -/
structure Row where
  mnemonic : String
  pattern  : CmdWord
  mask     : CmdWord
deriving DecidableEq, Repr

/-- The word spells the row's command. -/
def Row.accepts (r : Row) (w : CmdWord) : Bool := w &&& r.mask = r.pattern

/-- The twelve rows. -/
def opcodeRows : List Row :=
  [⟨"INIT", 0x0100000000, 0xFF00000000⟩, ⟨"SETCAL", 0x0200000000, 0xFF00000000⟩,
   ⟨"WRCODE", 0x0300000000, 0xFFFFFF0000⟩, ⟨"WRCUR", 0x0400000000, 0xFF00000000⟩,
   ⟨"PERSIST", 0x0500000000, 0xFFFFFFFFFF⟩, ⟨"CVTC2I", 0x0800000000, 0xFFFFFF0000⟩,
   ⟨"CVTI2C", 0x0900000000, 0xFF00000000⟩, ⟨"START", 0x1000000000, 0xFFFFFFFFFF⟩,
   ⟨"STOP", 0x1100000000, 0xFFFFFFFFFF⟩, ⟨"XFER.ACK", 0x1201000000, 0xFFFDF8FF00⟩,
   ⟨"XFER.NOACK", 0x1200000000, 0xFFFFF8FF00⟩, ⟨"ACKRD", 0x1300000000, 0xFFFDFFFFFF⟩]

/-- The mnemonic of a command's row. -/
def Instr.mnemonic (i : Instr) : String :=
  match i with
  | .init _ _ => "INIT"
  | .setcal _ _ => "SETCAL"
  | .wrcode _ => "WRCODE"
  | .wrcur _ => "WRCUR"
  | .persist => "PERSIST"
  | .cvtc2i _ => "CVTC2I"
  | .cvti2c _ => "CVTI2C"
  | .start => "START"
  | .stop => "STOP"
  | .xferAck _ _ _ => "XFER.ACK"
  | .xferNoack _ _ => "XFER.NOACK"
  | .ackrd _ => "ACKRD"

end Sys2Proof
end

