-- ==== Sys2Proof/Machine/Sequencer.lean ====
section
/-! DEFINITION. The sequencer at the grain of events (00_scope.md R5, 10_state.md R12, R21): a command is accepted, its
list is emitted one event at a time, and its result is written when the list is at its end. `tick` is this small step;
`step` (Machine/Step.lean) is one command. The list of each command is written here from the pseudocode of files 40 and
42, apart from the meanings, so that the agreement of the two views can be stated. -/

namespace Sys2Proof.Machine

/-! ### The lists -/

/-- The list entry of a hold slot. -/
def holdOp (p : Params) (h : HoldTime) : MicroOp := .emit (.waitUs (holdMicros p h))

/-- START (40_bus_primitives.md R67). -/
def startOps (p : Params) : List MicroOp :=
  [.emit (.drive .sda true), .emit (.drive .scl true), holdOp p p.holds.s1,
   .emit (.drive .sda false), holdOp p p.holds.s2, .emit (.drive .scl false), holdOp p p.holds.s3]

/-- STOP (40_bus_primitives.md R68). -/
def stopOps (p : Params) : List MicroOp :=
  [.emit (.drive .sda false), holdOp p p.holds.p1, .emit (.drive .scl true), holdOp p p.holds.p2,
   .emit (.drive .sda true), holdOp p p.holds.p3]

/-- One bit cycle (40_bus_primitives.md R69). -/
def bitOps (p : Params) (v : Level) : List MicroOp :=
  [.emit (.drive .sda v), holdOp p p.holds.b1, .emit (.drive .scl true), holdOp p p.holds.b2,
   .emit (.drive .scl false), holdOp p p.holds.b3]

/-- The no-acknowledgment tail (40_bus_primitives.md R71). -/
def tailOps (p : Params) : List MicroOp :=
  [.emit (.drive .sda p.noackSdaLevel), .emit (.drive .scl true)]

/-- The acknowledgment read (40_bus_primitives.md R74). -/
def ackOps (p : Params) (exp : Level) : List MicroOp :=
  [.emit (.mode .sda .inPu), holdOp p p.holds.a1, .emit (.drive .scl true), holdOp p p.holds.a2,
   .clearPoll, .poll exp, .finalSample,
   holdOp p p.holds.a3, .emit (.drive .scl false), holdOp p p.holds.a4, .emit (.mode .sda .out)]

/-- A unit with an acknowledgment read (40_bus_primitives.md R70). -/
def unitAckOps (p : Params) (data : Byte) (width : Nat) (exp : Level) : List MicroOp :=
  (unitBits data width).flatMap (bitOps p) ++ ackOps p exp

/-- A unit with the no-acknowledgment tail (40_bus_primitives.md R70). -/
def unitNoackOps (p : Params) (data : Byte) (width : Nat) : List MicroOp :=
  (unitBits data width).flatMap (bitOps p) ++ tailOps p

/-- A frame of bytes with acknowledgment reads (30_encoding.md R54 to R56). -/
def bytesFrameOps (p : Params) (vs : List Byte) (exp : Level) : List MicroOp :=
  startOps p ++ vs.flatMap (fun v => unitAckOps p v 8 exp) ++ stopOps p

/-- The header frame of persist phases 1 and 5a (30_encoding.md R56). -/
def headerFrameOps (p : Params) : List MicroOp := startOps p ++ unitNoackOps p Config.hdr 3 ++ stopOps p

/-- The write-code frame (30_encoding.md R54). -/
def writeFrameOps (p : Params) (c : BitVec 12) : List MicroOp :=
  bytesFrameOps p [addrByte p, p.regSelect, codeLowByte c, codeHighByte c] p.ackLevel

/-- The persist sequence (42_device_commands.md R107). -/
def persistOps (p : Params) : List MicroOp :=
  headerFrameOps p ++ bytesFrameOps p [Config.pAddr, Config.pCmd1] p.expCmd ++
    bytesFrameOps p (unlockBytes p) p.expUnlock ++ [.emit (.waitMs p.tCommitMs)] ++
    headerFrameOps p ++ bytesFrameOps p [Config.pAddr, Config.pCmd2] p.expCmd

/-- INIT's mode switch and presence check (42_device_commands.md R103). -/
def presenceOps (p : Params) : List MicroOp :=
  [.emit (.mode .scl .out), .emit (.mode .sda .out)] ++ bytesFrameOps p [addrByte p] p.ackLevel

/-! ### Acceptance, the events, and the end of a command -/

/-- The event list a command expands to, in the state at its acceptance (00_scope.md R5). -/
def commandOps (i : Instr) (s : State) : List MicroOp :=
  match i with
  | .init lineScl lineSda => if pinsOk s.params lineScl lineSda then presenceOps s.params else []
  | .setcal _ _ => []
  | .wrcode code => if codeOk code then writeFrameOps s.params (low12 code) else []
  | .wrcur cur => writeFrameOps s.params (wrcurCode cur s)
  | .persist => persistOps s.params
  | .cvtc2i _ => []
  | .cvti2c _ => []
  | .start => startOps s.params
  | .stop => stopOps s.params
  | .xferAck data width exp => unitAckOps s.params data width exp
  | .xferNoack data width => unitNoackOps s.params data width
  | .ackrd exp => ackOps s.params exp

/-- The state writes a command makes before its first event (42_device_commands.md R103, R105, R106; D22). -/
def writeAtStart (i : Instr) (s : State) : State :=
  match i with
  | .init lineScl lineSda => if pinsOk s.params lineScl lineSda then bindPins lineScl lineSda s else s
  | .setcal _ _ => s
  | .wrcode code => if codeOk code then { s with lastCode := low12 code } else s
  | .wrcur cur => { s with lastCode := wrcurCode cur s }
  | .persist => s
  | .cvtc2i _ => s
  | .cvti2c _ => s
  | .start => s
  | .stop => s
  | .xferAck _ _ _ => s
  | .xferNoack _ _ => s
  | .ackrd _ => s

/-- The state writes a command makes at its end, `res` among them (10_state.md R19; 30_encoding.md R57); `ack` is the
level of its last acknowledgment read. -/
def writeAtEnd (i : Instr) (ack : Level) (s : State) : State :=
  match i with
  | .init lineScl lineSda => if pinsOk s.params lineScl lineSda then presenceResult ack s else setRes 1 s
  | .setcal lo hi =>
    if calOk lo hi then { s with calLo := low12 lo, calHi := low12 hi, calEn := true, res := 0 } else setRes 1 s
  | .wrcode _ => setRes (currentResult s s.lastCode) s
  | .wrcur _ => setRes (s.lastCode.setWidth 32) s
  | .persist => setRes 0 s
  | .cvtc2i code => setRes (currentResult s (low12 code)) s
  | .cvti2c cur => setRes (BitVec.ofNat 32 (currentToCode s cur)) s
  | .start => setRes 0 s
  | .stop => setRes 0 s
  | .xferAck _ _ _ => setRes (levelResult ack) s
  | .xferNoack _ _ => setRes 0 s
  | .ackrd _ => setRes (levelResult ack) s

/-- The state guard as a test on the command (42_device_commands.md R100). -/
def executedIn (i : Instr) (st : DevState) : Bool :=
  match i with
  | .init _ _ => st = .uninit
  | .setcal _ _ => true
  | .wrcode _ => st = .ready
  | .wrcur _ => st = .ready
  | .persist => st = .ready
  | .cvtc2i _ => true
  | .cvti2c _ => true
  | .start => st = .ready
  | .stop => st = .ready
  | .xferAck _ _ _ => st = .ready
  | .xferNoack _ _ => st = .ready
  | .ackrd _ => st = .ready

/-- A decoded command is accepted: guarded, or `busy` rises and its list is laid out (10_state.md R12, R21). -/
def accept (i : Instr) (s : State) : State :=
  if executedIn i s.st then
    { writeAtStart i s with busy := true, seq := .running ⟨i, 0, commandOps i s, false⟩ }
  else illegalResponse s

/-- Emit one mode, drive or wait event. A sample is not emitted this way: it has entries of its own. -/
def emitEvent (e : Event) (s : State) : State :=
  match e with
  | .mode line m => setMode line m s
  | .drive line v => drive line v s
  | .sample _ _ => s
  | .waitUs n => waitUs n s
  | .waitMs n => waitMs n s

/-- The flight after one event: `rest` to do, the index one further. -/
def Flight.past (f : Flight) (rest : List MicroOp) : Seq := .running { f with todo := rest, index := f.index + 1 }

/-- The flight after an entry that is no event. -/
def Flight.silent (f : Flight) (rest : List MicroOp) : Seq := .running { f with todo := rest }

/-- The command in flight goes on by at most one event (00_scope.md R5); with nothing left to do it ends: its results are
written, `busy` falls, `seq` is idle (10_state.md R12, R21). -/
def advance (f : Flight) (s : State) : State :=
  match f.todo with
  | [] => { writeAtEnd f.cmd f.ack s with busy := false, seq := .idle }
  | .emit e :: rest => { emitEvent e s with seq := f.past rest }
  | .clearPoll :: rest => { s with pollCnt := 0, seq := f.silent rest }
  | .poll exp :: rest =>
    if s.pollCnt < s.params.ackPollMax then
      if nextLevel s = exp then { sampleSda s with seq := f.past rest }
      else { sampleSda s with seq := f.past (.pollWait exp :: rest) }
    else { s with seq := f.silent rest }
  | .pollWait exp :: rest =>
    { hold s.params.holds.poll s with pollCnt := s.pollCnt + 1, seq := f.past (.poll exp :: rest) }
  | .finalSample :: rest =>
    { sampleSda s with seq := .running { f with todo := rest, index := f.index + 1, ack := nextLevel s } }

/-- The word on the port is accepted and decoded (10_state.md R24; 60_exceptions.md R126): an illegal word gets the
ILLEGAL response. With no word valid the block waits. -/
def acceptNext (s : State) : State :=
  match s.words with
  | [] => s
  | w :: rest =>
    match decodeWord w with
    | .ok i => accept i { s with words := rest }
    | .error _ => illegalResponse { s with words := rest }

/-- The small step: reset, or the command in flight, or the word on the port. -/
def tick (s : State) : State :=
  if s.rst then holdReset s
  else
    match s.seq with
    | .running f => advance f s
    | .idle => acceptNext s

/-- `n` small steps. -/
def ticks (n : Nat) (s : State) : State :=
  match n with
  | 0 => s
  | m + 1 => ticks m (tick s)

/-! ### The rest of a command in flight, in one go -/

/-- A bound on the small steps one entry can take: a poll loop of `ACK_POLL_MAX` iterations takes two each, and one
to leave (40_bus_primitives.md R80). -/
def opCost (p : Params) (op : MicroOp) : Nat :=
  match op with
  | .emit _ => 1
  | .clearPoll => 1
  | .poll _ => 2 * p.ackPollMax + 1
  | .pollWait _ => 2 * p.ackPollMax + 2
  | .finalSample => 1

/-- A bound on the small steps a list can take, its end included. -/
def opsCost (p : Params) (ops : List MicroOp) : Nat :=
  match ops with
  | [] => 1
  | op :: rest => opCost p op + opsCost p rest

/-- At most `n` steps of the command in flight; an idle block stays as it is. -/
def advances (n : Nat) (s : State) : State :=
  match n with
  | 0 => s
  | m + 1 =>
    match s.seq with
    | .running f => advances m (advance f s)
    | .idle => s

/-- The command in flight runs to its end. -/
def finish (f : Flight) (s : State) : State := advances (opsCost s.params f.todo) s

/-! ### What one step of the machine does -/

/-- What the next step is about: reset held, a command in flight, a command or an illegal word on the port, or nothing
to do. -/
inductive Action where
  | reset
  | inFlight (f : Flight)
  | wait
  | command (i : Instr) (rest : List CmdWord)
  | illegal (rest : List CmdWord)
deriving DecidableEq, Repr

/-- Which of them it is (10_state.md R12, R24; 60_exceptions.md R126; 70_reset_and_hazards.md R140). -/
def nextAction (s : State) : Action :=
  if s.rst then .reset
  else
    match s.seq with
    | .running f => .inFlight f
    | .idle =>
      match s.words with
      | [] => .wait
      | w :: rest =>
        match decodeWord w with
        | .ok i => .command i rest
        | .error _ => .illegal rest

/-- An instruction word placed where the next step takes its command from: on the port of a block that is idle and not
held in reset. -/
def placeWord (w : CmdWord) (s : State) : State :=
  present w { s with rst := false, busy := false, seq := .idle }

end Sys2Proof.Machine
end

