-- ==== Sys2Proof/Machine/Step.lean ====
section
/-! DEFINITION. One step of the machine: the command on the port is accepted and run to its end (00_scope.md R5, the big
step). -/

namespace Sys2Proof.Machine

/-- One step: held reset (70_reset_and_hazards.md R140); the end of a command in flight (10_state.md R12); waiting, when
no word is valid (70_reset_and_hazards.md R141); a command of the port; or the ILLEGAL response to an illegal word
(60_exceptions.md R127). -/
def step (s : State) : Host.Outcome State Fault Refusal :=
  match nextAction s with
  | .reset => .next (holdReset s)
  | .inFlight f => .next (finish f s)
  | .wait => .next s
  | .command i rest => exec i { s with words := rest }
  | .illegal rest => .next (illegalResponse { s with words := rest })

/-- The word with the bits `w` (bits above `nbits` zero), on the port of a block that is idle and not held in reset: the
very next step runs it. The word is the whole instruction, so nothing else of the machine is touched (log 3). -/
def State.withFetchWord (s : State) (nbits w : Nat) : State :=
  placeWord (BitVec.ofNat 40 (w % 2 ^ nbits)) s

end Sys2Proof.Machine
end

