-- ==== Sys2Proof/Machine/Asm.lean ====
section
/-! DEFINITION. The textual form of a command as its mnemonic and operands, its rendering, and the pseudo-instructions
(30_encoding.md R52, R53). -/

namespace Sys2Proof.Machine

/-- One operand of an assembler line: an integer, or the word ACK or NOACK (30_encoding.md R52). -/
inductive AsmOperand where
  | int (v : Int)
  | ack
  | noack
deriving DecidableEq, Repr

/-- One assembler line. -/
structure AsmLine where
  mnemonic : String
  operands : List AsmOperand
deriving DecidableEq, Repr

/-- The line of a command (30_encoding.md R52). -/
def disassemble (i : Instr) : AsmLine :=
  match i with
  | .init lineScl lineSda => ⟨"INIT", [.int lineScl.toInt, .int lineSda.toInt]⟩
  | .setcal lo hi => ⟨"SETCAL", [.int lo.toNat, .int hi.toNat]⟩
  | .wrcode code => ⟨"WRCODE", [.int code.toNat]⟩
  | .wrcur cur => ⟨"WRCUR", [.int cur.toInt]⟩
  | .persist => ⟨"PERSIST", []⟩
  | .cvtc2i code => ⟨"CVTC2I", [.int code.toNat]⟩
  | .cvti2c cur => ⟨"CVTI2C", [.int cur.toInt]⟩
  | .start => ⟨"START", []⟩
  | .stop => ⟨"STOP", []⟩
  | .xferAck data width exp => ⟨"XFER", [.int data.toNat, .int width, .ack, .int exp.toNat]⟩
  | .xferNoack data width => ⟨"XFER", [.int data.toNat, .int width, .noack]⟩
  | .ackrd exp => ⟨"ACKRD", [.int exp.toNat]⟩

/-- An unsigned operand of `n` bits. -/
def asmUnsigned (n : Nat) (v : Int) : Option (BitVec n) :=
  if 0 ≤ v ∧ v < 2 ^ n then some (BitVec.ofInt n v) else none

/-- A signed operand of `n + 1` bits. -/
def asmSigned (n : Nat) (v : Int) : Option (BitVec (n + 1)) :=
  if -(2 ^ n) ≤ v ∧ v < 2 ^ n then some (BitVec.ofInt (n + 1) v) else none

/-- A level operand. -/
def asmLevel (v : Int) : Option Level :=
  if v = 0 then some false else if v = 1 then some true else none

/-- A width operand, 1 to 8. -/
def asmWidth (v : Int) : Option Nat := if 1 ≤ v ∧ v ≤ 8 then some v.toNat else none

/-- The command of a line, with the operand ranges of 30_encoding.md R52. For the signed operands R52 gives no range: a
line whose operand does not fit its field (R47) is no command. DESIGN CHOICE (log 22). -/
def assemble (line : AsmLine) : Option Instr :=
  match line.mnemonic, line.operands with
  | "INIT", [.int a, .int b] => do return .init (← asmSigned 15 a) (← asmSigned 15 b)
  | "SETCAL", [.int lo, .int hi] => do return .setcal (← asmUnsigned 16 lo) (← asmUnsigned 16 hi)
  | "WRCODE", [.int code] => do return .wrcode (← asmUnsigned 16 code)
  | "WRCUR", [.int cur] => do return .wrcur (← asmSigned 31 cur)
  | "PERSIST", [] => some .persist
  | "CVTC2I", [.int code] => do return .cvtc2i (← asmUnsigned 16 code)
  | "CVTI2C", [.int cur] => do return .cvti2c (← asmSigned 31 cur)
  | "START", [] => some .start
  | "STOP", [] => some .stop
  | "XFER", [.int data, .int width, .ack, .int exp] => do
    return .xferAck (← asmUnsigned 8 data) (← asmWidth width) (← asmLevel exp)
  | "XFER", [.int data, .int width, .noack] => do return .xferNoack (← asmUnsigned 8 data) (← asmWidth width)
  | "ACKRD", [.int exp] => do return .ackrd (← asmLevel exp)
  | _, _ => none

/-- The text of an operand. -/
def renderOperand (o : AsmOperand) : String :=
  match o with
  | .int v => toString v
  | .ack => "ACK"
  | .noack => "NOACK"

/-- The text of a line: "mnemonic in capitals; operands separated by commas" (30_encoding.md R52). -/
def renderLine (line : AsmLine) : String :=
  match line.operands with
  | [] => line.mnemonic
  | os => line.mnemonic ++ " " ++ String.intercalate ", " (os.map renderOperand)

/-- The pseudo-instruction SENDBYTE (30_encoding.md R53). -/
def pseudoSendByte (p : Params) (data : Byte) : Instr := .xferAck data 8 p.ackLevel

/-- The pseudo-instruction SENDHDR (30_encoding.md R53). -/
def pseudoSendHdr : Instr := .xferNoack Config.hdr 3

/-- The pseudo-instruction WRMA of a number of mA given in thousandths, for K = 1000 (30_encoding.md R53). A number that
does not fit the signed 32-bit operand is wrapped modulo 2^32; the spec is silent there. DESIGN CHOICE (log 22). -/
def pseudoWrma (thousandths : Int) : Instr := .wrcur (BitVec.ofInt 32 thousandths)

/-- The pseudo-instruction CVTMA of a number of mA given in thousandths, for K = 1000 (30_encoding.md R53). A number that
does not fit the signed 32-bit operand is wrapped modulo 2^32; the spec is silent there. DESIGN CHOICE (log 22). -/
def pseudoCvtma (thousandths : Int) : Instr := .cvti2c (BitVec.ofInt 32 thousandths)

end Sys2Proof.Machine
end

