-- ==== Sys2Proof/Machine/Wire.lean ====
section
/-! DEFINITION. What the environment sees of a trace: the level on each line (20_memory.md R40), the start edges, stop
edges and clock pulses of a list of events (70_reset_and_hazards.md R146), and the counts and sums of R152. -/

namespace Sys2Proof.Machine

/-- The pin state: directions and latches (10_state.md R14, R15). -/
structure Pins where
  sclMode : LineMode
  sclOut  : Level
  sdaMode : LineMode
  sdaOut  : Level
deriving DecidableEq, Repr

/-- The pin state of the block. -/
def pinsOf (s : State) : Pins := ⟨s.sclMode, s.sclOut, s.sdaMode, s.sdaOut⟩

/-- The pin state after one event (00_scope.md R6). -/
def pinsAfter (p : Pins) (e : Event) : Pins :=
  match e with
  | .mode .scl m => { p with sclMode := m }
  | .mode .sda m => { p with sdaMode := m }
  | .drive .scl v => { p with sclOut := v }
  | .drive .sda v => { p with sdaOut := v }
  | .sample _ _ => p
  | .waitUs _ => p
  | .waitMs _ => p

/-- The pin state after a list of events. -/
def pinsAfterAll (p : Pins) (evs : List Event) : Pins := evs.foldl pinsAfter p

/-- The levels of the lines when the block does not drive them: what the environment drives, or 1 from the pull-up if
nothing does (20_memory.md R40). -/
structure Released where
  scl : Level
  sda : Level
deriving DecidableEq, Repr

/-- Nothing drives the lines: "1 if nothing drives it, because the input has a pull-up" (20_memory.md R40). -/
def undriven : Released := ⟨true, true⟩

/-- The level on the clock line (20_memory.md R40). -/
def sclLevel (rel : Released) (p : Pins) : Level := if p.sclMode = .out then p.sclOut else rel.scl

/-- The level on the data line (20_memory.md R40). -/
def sdaLevel (rel : Released) (p : Pins) : Level := if p.sdaMode = .out then p.sdaOut else rel.sda

/-- What a receiver on the two lines can tell apart: "A start edge is SDA falling while SCL is high, a stop edge SDA
rising while SCL is high" (70_reset_and_hazards.md R146), and a rising clock with the level SDA has then. -/
inductive Mark where
  | startEdge
  | stopEdge
  | clock (sda : Level)
deriving DecidableEq, Repr

/-- What one change of the pin state puts on the bus. -/
def marksBetween (rel : Released) (p q : Pins) : List Mark :=
  match sclLevel rel p, sclLevel rel q with
  | false, true => [.clock (sdaLevel rel q)]
  | true, true =>
    match sdaLevel rel p, sdaLevel rel q with
    | true, false => [.startEdge]
    | false, true => [.stopEdge]
    | false, false => []
    | true, true => []
  | true, false => []
  | false, false => []

/-- What a list of events puts on the bus, from a pin state. -/
def marks (rel : Released) (p : Pins) (evs : List Event) : List Mark :=
  match evs with
  | [] => []
  | e :: rest => marksBetween rel p (pinsAfter p e) ++ marks rel (pinsAfter p e) rest

/-! ### Counts and sums (70_reset_and_hazards.md R152) -/

/-- The event is a sample. -/
def isSample (e : Event) : Bool :=
  match e with
  | .sample _ _ => true
  | .mode _ _ => false
  | .drive _ _ => false
  | .waitUs _ => false
  | .waitMs _ => false

/-- How many samples a trace takes. -/
def sampleCount (evs : List Event) : Nat := evs.countP isSample

/-- The microseconds one event waits. -/
def microsOf (e : Event) : Nat :=
  match e with
  | .waitUs n => n
  | .mode _ _ => 0
  | .drive _ _ => 0
  | .sample _ _ => 0
  | .waitMs _ => 0

/-- The milliseconds one event waits. -/
def millisOf (e : Event) : Nat :=
  match e with
  | .waitMs n => n
  | .mode _ _ => 0
  | .drive _ _ => 0
  | .sample _ _ => 0
  | .waitUs _ => 0

/-- The sum of the microsecond waits of a trace. -/
def waitedUs (evs : List Event) : Nat := (evs.map microsOf).sum

/-- The sum of the millisecond waits of a trace. -/
def waitedMs (evs : List Event) : Nat := (evs.map millisOf).sum

end Sys2Proof.Machine
end

