-- ==== Sys2Proof/Safety.lean ====
section
/-! DEFINITION. The terms claims are stated in: the invariant of the block (10_state.md R22), what a command leaves
unchanged, and the trace macros of 95_test_vectors.md. -/

namespace Sys2Proof.Machine

/-! ### The invariant -/

/-- The mode of a line after the rest of a list, from its mode now. -/
def modeAfter (line : Line) (ops : List MicroOp) (m : LineMode) : LineMode :=
  match ops with
  | [] => m
  | .emit (.mode l m') :: rest => modeAfter line rest (if l = line then m' else m)
  | .emit (.drive _ _) :: rest => modeAfter line rest m
  | .emit (.sample _ _) :: rest => modeAfter line rest m
  | .emit (.waitUs _) :: rest => modeAfter line rest m
  | .emit (.waitMs _) :: rest => modeAfter line rest m
  | .clearPoll :: rest => modeAfter line rest m
  | .poll _ :: rest => modeAfter line rest m
  | .pollWait _ :: rest => modeAfter line rest m
  | .finalSample :: rest => modeAfter line rest m

/-- When a calibration is active its codes are ordered and in range (10_state.md R22 (a)). -/
abbrev CalOrdered (s : State) : Prop :=
  s.calEn = true → s.calLo.toNat < s.calHi.toNat ∧ s.calHi.toNat ≤ Config.codeMax

/-- READY means that the lines are bound to valid pins and that the clock is driven (10_state.md R22 (c)). -/
abbrev ReadyBound (s : State) : Prop :=
  s.st = .ready →
    pinOk s.params.pinValid s.pinScl = true ∧ pinOk s.params.pinValid s.pinSda = true ∧ s.sclMode = .out

/-- Between commands of a READY block the data line is driven (10_state.md R22 (d)). -/
abbrev IdleDriven (s : State) : Prop := s.busy = false → s.st = .ready → s.sdaMode = .out

/-- `seq` is idle exactly when `busy` is 0 (10_state.md R21). -/
abbrev BusyMatchesSeq (s : State) : Prop := s.busy = false ↔ s.seq = .idle

/-- What is left of a command in flight leads to a state that meets the rest: it never releases the clock, ends with the
data line driven, and an INIT has bound the pins it will answer for. -/
def FlightSound (s : State) (f : Flight) : Prop :=
  (∀ op ∈ f.todo, op ≠ .emit (.mode .scl .inPu)) ∧
  (s.st = .ready → modeAfter .sda f.todo s.sdaMode = .out) ∧
  match f.cmd with
  | .init lineScl lineSda =>
    s.st = .uninit ∧
    (pinsOk s.params lineScl lineSda = true →
      s.pinScl = lineScl ∧ s.pinSda = lineSda ∧
      modeAfter .scl f.todo s.sclMode = .out ∧ modeAfter .sda f.todo s.sdaMode = .out)
  | _ => True

/-- The invariant of the block: 10_state.md R22 (a), (c), (d) and R21, with what a command in flight must meet for them
to hold when it ends. R22 (b) is the width of `last_code`. -/
structure Inv (s : State) : Prop where
  cal : CalOrdered s
  bound : ReadyBound s
  driven : IdleDriven s
  busySeq : BusyMatchesSeq s
  flight : ∀ f, s.seq = .running f → FlightSound s f

/-! ### Frames -/

/-- The sequencer, the inputs the host drives and the parameters are as before. -/
abbrev SameControl (s t : State) : Prop :=
  t.busy = s.busy ∧ t.seq = s.seq ∧ t.rst = s.rst ∧ t.words = s.words ∧ t.params = s.params

/-- The pin identifiers and the clock line's direction are as before. -/
abbrev SameBinding (s t : State) : Prop :=
  t.pinScl = s.pinScl ∧ t.pinSda = s.pinSda ∧ t.sclMode = s.sclMode

/-- The calibration is as before. -/
abbrev SameCal (s t : State) : Prop := t.calEn = s.calEn ∧ t.calLo = s.calLo ∧ t.calHi = s.calHi

/-- No event: the lines, the poll counter, the environment and the trace are as before. -/
abbrev NoEvent (s t : State) : Prop :=
  t.sclMode = s.sclMode ∧ t.sclOut = s.sclOut ∧ t.sdaMode = s.sdaMode ∧ t.sdaOut = s.sdaOut ∧
  t.pollCnt = s.pollCnt ∧ t.levels = s.levels ∧ t.draws = s.draws ∧ t.trace = s.trace

/-- What the bus primitives leave unchanged: everything but the latches, the data line's direction, the poll counter, the
environment, the trace and `res` (40_bus_primitives.md R67, R68, R70, R73). -/
abbrev BusFrame (s t : State) : Prop :=
  SameControl s t ∧ SameBinding s t ∧ SameCal s t ∧ t.st = s.st ∧ t.lastCode = s.lastCode

/-! ### Trace macros (95_test_vectors.md) -/

/-- A hold as its event. -/
def traceHold (p : Params) (h : HoldTime) : Event := .waitUs (holdMicros p h)

/-- `S`. -/
def traceS (p : Params) : List Event :=
  [.drive .sda true, .drive .scl true, traceHold p p.holds.s1, .drive .sda false, traceHold p p.holds.s2,
   .drive .scl false, traceHold p p.holds.s3]

/-- `P`. -/
def traceP (p : Params) : List Event :=
  [.drive .sda false, traceHold p p.holds.p1, .drive .scl true, traceHold p p.holds.p2, .drive .sda true,
   traceHold p p.holds.p3]

/-- `b0` and `b1`. -/
def traceBit (p : Params) (v : Level) : List Event :=
  [.drive .sda v, traceHold p p.holds.b1, .drive .scl true, traceHold p p.holds.b2, .drive .scl false,
   traceHold p p.holds.b3]

/-- The bit cycles of `data[n-1]` down to `data[0]`. -/
def traceBits (p : Params) (data : Byte) (n : Nat) : List Event :=
  ((List.range n).reverse.map fun j => traceBit p (data.getLsbD j)).flatten

/-- `T`. -/
def traceT (p : Params) : List Event := [.drive .sda p.noackSdaLevel, .drive .scl true]

/-- An acknowledgment read around the events of its poll phase and its final sample. -/
def traceAck (p : Params) (poll : List Event) (r : Level) : List Event :=
  [.mode .sda .inPu, traceHold p p.holds.a1, .drive .scl true, traceHold p p.holds.a2] ++ poll ++
  [.sample .sda r, traceHold p p.holds.a3, .drive .scl false, traceHold p p.holds.a4, .mode .sda .out]

/-- `k` samples that do not match, each with its wait. -/
def traceMisses (p : Params) (exp : Level) (k : Nat) : List Event :=
  (List.replicate k [.sample .sda (!exp), traceHold p p.holds.poll]).flatten

/-- The events a poll phase can emit (40_bus_primitives.md R76): it ends at the first sample that matches, after fewer
than `ACK_POLL_MAX` misses, or after `ACK_POLL_MAX` misses. -/
def PollTrace (p : Params) (exp : Level) (poll : List Event) : Prop :=
  (∃ k, k < p.ackPollMax ∧ poll = traceMisses p exp k ++ [.sample .sda exp]) ∨
  poll = traceMisses p exp p.ackPollMax

/-- The events an acknowledgment read that returns `r` can emit (40_bus_primitives.md R74 to R78). -/
def AckTrace (p : Params) (exp : Level) (evs : List Event) (r : Level) : Prop :=
  ∃ poll, PollTrace p exp poll ∧ evs = traceAck p poll r

/-- The events a unit with an acknowledgment read that returns `r` can emit (40_bus_primitives.md R70). -/
def UnitTrace (p : Params) (data : Byte) (n : Nat) (exp : Level) (evs : List Event) (r : Level) : Prop :=
  ∃ ack, AckTrace p exp ack r ∧ evs = traceBits p data n ++ ack

/-- The events of bytes that each end with an acknowledgment read. -/
def BytesTrace (p : Params) (exp : Level) (vs : List Byte) (evs : List Event) : Prop :=
  match vs with
  | [] => evs = []
  | v :: rest => ∃ r here after, UnitTrace p v 8 exp here r ∧ BytesTrace p exp rest after ∧ evs = here ++ after

/-- The events of a frame of such bytes: start condition, bytes, stop condition (30_encoding.md R54 to R56). -/
def FrameTrace (p : Params) (exp : Level) (vs : List Byte) (evs : List Event) : Prop :=
  ∃ bytes, BytesTrace p exp vs bytes ∧ evs = traceS p ++ bytes ++ traceP p

/-- The events of the 3-bit header frame (30_encoding.md R56, phases 1 and 5a). -/
def traceHeader (p : Params) : List Event := traceS p ++ traceBits p 0x02 3 ++ traceT p ++ traceP p

/-- The level a sample event carries. -/
def levelOf (e : Event) : Option Level :=
  match e with
  | .sample _ v => some v
  | .mode _ _ => none
  | .drive _ _ => none
  | .waitUs _ => none
  | .waitMs _ => none

/-- The level the environment returns to the `j`-th sample from a state: the `j`-th supplied level, else a free value. -/
def envLevel (s : State) (j : Nat) : Level :=
  match s.levels[j]? with
  | some v => v
  | none => Config.freeLevel (s.draws + j)

/-- The marks of a unit of `n` bits: a clock for each, most significant first. -/
def marksOfBits (data : Byte) (n : Nat) : List Mark := (List.range n).reverse.map fun j => .clock (data.getLsbD j)

/-- The marks of a byte and of the clock of its acknowledgment read, whose level is the released line's. -/
def marksOfByte (rel : Released) (v : Byte) : List Mark := marksOfBits v 8 ++ [.clock rel.sda]

/-- The marks of a frame of bytes that starts from an idle bus: a start edge, the bytes, then the clock that the stop
condition raises and its stop edge. -/
def marksOfFrame (rel : Released) (vs : List Byte) : List Mark :=
  .startEdge :: (vs.flatMap (marksOfByte rel) ++ [.clock false, .stopEdge])

/-- The marks of a header frame that starts from an idle bus: a start edge, the bits 0, 1, 0, the clock of the tail, and
a stop condition entered with the clock high (70_reset_and_hazards.md R146 (a), (b)). -/
def marksOfHeader (noack : Level) : List Mark :=
  .startEdge :: .clock false :: .clock true :: .clock false :: .clock noack ::
    (if noack then [.startEdge, .stopEdge] else [.stopEdge])

end Sys2Proof.Machine
end

