-- ==== Sys2Proof/Certificates/Slice0/Obligations.lean ====
section
/-! DEFINITION. The statements for the provers, in the order of the spec's files. A statement about every state is about
every parameter record, because the state carries one (log 7), and about every environment, because the state carries the
levels it returns and a free value stands for the rest (log 2). -/

open Sys2Proof Sys2Proof.Machine

/-! ### Encoding (file 30) -/

/-- 30_encoding.md R45 to R48: words written out from the format table, one or more for each row, spell the command they
stand for. -/
def Obligations.WrittenOutWordsDecode : Prop :=
  decodeWord 0x0100050004 = .ok (.init 5 4) ∧ decodeWord 0x01FFFF0004 = .ok (.init (-1) 4) ∧
  decodeWord 0x02028F0CCD = .ok (.setcal 655 3277) ∧ decodeWord 0x0300001000 = .ok (.wrcode 4096) ∧
  decodeWord 0x04FFFFEC78 = .ok (.wrcur (-5000)) ∧ decodeWord 0x0500000000 = .ok .persist ∧
  decodeWord 0x08000007AE = .ok (.cvtc2i 1966) ∧ decodeWord 0x0900004E21 = .ok (.cvti2c 20001) ∧
  decodeWord 0x1000000000 = .ok .start ∧ decodeWord 0x1100000000 = .ok .stop ∧
  decodeWord 0x12010700B0 = .ok (.xferAck 0xB0 8 false) ∧ decodeWord 0x1203000001 = .ok (.xferAck 0x01 1 true) ∧
  decodeWord 0x1200020002 = .ok (.xferNoack 0x02 3) ∧ decodeWord 0x1302000000 = .ok (.ackrd true)

/-- 30_encoding.md R45 to R48, 20_memory.md R36: no bit of an encoding is dropped, in a word or in its serialised bytes,
for every command with every operand. -/
def Obligations.DecodeOfEncodeIsTheCommand : Prop :=
  ∀ i : Instr, i.WellFormed →
    decodeWord (encode i) = .ok i ∧ ∀ rest : List Byte, decodeBytes (encodeBytes i ++ rest) = .ok (i, rest)

/-- 30_encoding.md R48, R49: a word that decodes has one spelling: it is the encoding of the command it decodes to. -/
def Obligations.EncodeOfDecodeIsTheWord : Prop :=
  ∀ (w : CmdWord) (i : Instr), decodeWord w = .ok i → i.WellFormed ∧ encode i = w

/-- 30_encoding.md R48 (decision D2: the opcode numbers): twelve pairwise disjoint patterns; a word that matches a row
spells that row's command, and a word that matches none is illegal. -/
def Obligations.WordsDecodeExactlyByTheTable : Prop :=
  opcodeRows.length = 12 ∧
  ∀ w : CmdWord,
    (∀ r ∈ opcodeRows, ∀ r' ∈ opcodeRows, r.accepts w = true → r'.accepts w = true → r = r') ∧
    (∀ r ∈ opcodeRows, r.accepts w = true → ∃ i, decodeWord w = .ok i ∧ i.mnemonic = r.mnemonic) ∧
    ((∀ r ∈ opcodeRows, r.accepts w = false) → ∃ e, decodeWord w = .error e)

/-- 30_encoding.md R52 (decision D28): the assembler line of a command assembles to the command. -/
def Obligations.AssembledLineIsTheCommand : Prop :=
  ∀ i : Instr, i.WellFormed → assemble (disassemble i) = some i

/-! ### Steps (files 00, 10, 70) -/

/-- 10_state.md R24, 60_exceptions.md R126: an idle block that is not held in reset runs the command on its port; the
step adds only that the word leaves the port. -/
def Obligations.StepRunsTheCommandOnThePort : Prop :=
  ∀ (s : State) (w : CmdWord) (rest : List CmdWord) (i : Instr),
    s.rst = false → s.seq = .idle → s.words = w :: rest → decodeWord w = .ok i →
      step s = exec i { s with words := rest }

/-- The word of a command, placed on the port of any block, is what the next step runs (log 3: the model's way of placing
a word). -/
def Obligations.PlacedCommandRunsNext : Prop :=
  ∀ (s : State) (i : Instr), i.WellFormed →
    step (s.withFetchWord 40 (encode i).toNat) = exec i { s with rst := false, busy := false, seq := .idle }

/-- 60_exceptions.md R127 (decision D18, log 5): the ILLEGAL response to a word that no row matches. -/
def Obligations.IllegalWordChangesOnlyTheResult : Prop :=
  ∀ (s : State) (w : CmdWord) (rest : List CmdWord) (e : DecodeError),
    s.rst = false → s.seq = .idle → s.words = w :: rest → decodeWord w = .error e →
      step s = .next { s with words := rest, res := 0xFFFFFFFF }

/-- 42_device_commands.md R100, 60_exceptions.md R127 (decision D18, log 5): a bus command in UNINIT and an INIT in READY
get the ILLEGAL response. -/
def Obligations.GuardedCommandChangesOnlyTheResult : Prop :=
  (∀ (s : State) (a b : BitVec 16), s.st = .ready → exec (.init a b) s = .next { s with res := 0xFFFFFFFF }) ∧
  ∀ (s : State) (i : Instr), s.st = .uninit →
    ((∃ c, i = .wrcode c) ∨ (∃ c, i = .wrcur c) ∨ i = .persist ∨ i = .start ∨ i = .stop ∨
      (∃ d n e, i = .xferAck d n e) ∨ (∃ d n, i = .xferNoack d n) ∨ ∃ e, i = .ackrd e) →
    exec i s = .next { s with res := 0xFFFFFFFF }

/-- 70_reset_and_hazards.md R141: "the block executes nothing until the host presents a command". -/
def Obligations.NothingPresentedWaits : Prop :=
  ∀ s : State, s.rst = false → s.seq = .idle → s.words = [] → step s = .next s ∧ tick s = s

/-- 70_reset_and_hazards.md R140 (decision D23; log 4 for what is not an element of the block's state): while `rst` is
asserted every element holds its reset value, and a command in flight is abandoned. -/
def Obligations.HeldResetRestoresResetValues : Prop :=
  ∀ s : State, s.rst = true → ∃ t, step s = .next t ∧ tick s = t ∧
    t.st = .uninit ∧ t.busy = false ∧ t.pinScl = -1 ∧ t.pinSda = -1 ∧
    t.sclMode = .inPu ∧ t.sclOut = true ∧ t.sdaMode = .inPu ∧ t.sdaOut = true ∧
    t.calEn = false ∧ t.calLo = 0 ∧ t.calHi = 0 ∧ t.lastCode = 0 ∧ t.res = 0 ∧ t.pollCnt = 0 ∧ t.seq = .idle ∧
    t.trace = s.trace

/-- 10_state.md R10, R23: the reset column. -/
def Obligations.ResetStateHoldsTheResetColumn : Prop :=
  State.reset.st = .uninit ∧ State.reset.busy = false ∧ State.reset.pinScl = -1 ∧ State.reset.pinSda = -1 ∧
  State.reset.sclMode = .inPu ∧ State.reset.sclOut = true ∧ State.reset.sdaMode = .inPu ∧
  State.reset.sdaOut = true ∧ State.reset.calEn = false ∧ State.reset.calLo = 0 ∧ State.reset.calHi = 0 ∧
  State.reset.lastCode = 0 ∧ State.reset.res = 0 ∧ State.reset.pollCnt = 0 ∧ State.reset.seq = .idle

/-- 10_state.md R12: while a command is in flight no word leaves the port, in a small step or in the step that ends the
command. -/
def Obligations.BusyBlockAcceptsNoWord : Prop :=
  ∀ (s : State) (f : Flight), s.rst = false → s.seq = .running f →
    (tick s).words = s.words ∧ ∃ t, step s = .next t ∧ t.words = s.words

/-- 20_memory.md R43: the word is sampled once, at acceptance, "and later changes on `cmd` do not affect the command in
flight". -/
def Obligations.CommandInFlightIgnoresThePort : Prop :=
  ∀ (s : State) (f : Flight) (ws : List CmdWord), s.rst = false → s.seq = .running f →
    tick { s with words := ws } = { tick s with words := ws } ∧
    ∃ t, step s = .next t ∧ step { s with words := ws } = .next { t with words := ws }

/-- 40_bus_primitives.md R80, 10_state.md R12: whatever is left of a command in flight, for every environment and every
parameter record, it ends: the step leaves the block idle. -/
def Obligations.CommandInFlightEnds : Prop :=
  ∀ (s : State) (f : Flight), s.rst = false → s.seq = .running f →
    ∃ t, step s = .next t ∧ t.busy = false ∧ t.seq = .idle

/-- 00_scope.md R5, 10_state.md R12, R21: the step that runs a command and the small steps that emit its events one at a
time give the same state and the same trace, and `busy` is 1 from the acceptance until the last of them. -/
def Obligations.StepIsARunOfEvents : Prop :=
  ∀ (s : State) (w : CmdWord) (rest : List CmdWord),
    s.rst = false → s.busy = false → s.seq = .idle → s.words = w :: rest →
      ∃ n t, 0 < n ∧ step s = .next t ∧ ticks n s = t ∧ t.busy = false ∧ t.seq = .idle ∧
        ∀ m, 0 < m → m < n → (ticks m s).busy = true

/-! ### Invariants (file 10) -/

/-- 10_state.md R22: the invariant holds right after reset, whatever the parameters and whatever the outside has lined
up. -/
def Obligations.ResetMeetsTheInvariant : Prop :=
  ∀ (p : Params) (ws : List CmdWord) (ls : List Level) (n : Nat),
    Inv { State.reset with params := p, words := ws, levels := ls, draws := n }

/-- 10_state.md R22: every step keeps the invariant, from every state that meets it. -/
def Obligations.StepKeepsTheInvariant : Prop :=
  ∀ s t : State, Inv s → step s = .next t → Inv t

/-- 10_state.md R22: every small step keeps it, so that it also holds in the middle of every command. -/
def Obligations.TickKeepsTheInvariant : Prop :=
  ∀ s : State, Inv s → Inv (tick s)

/-- 10_state.md R11: READY is left by no command and by no small step of one, in a block that is not held in reset; it is
reached only by an INIT whose pin check and presence check (the last sample of its frame) both succeed; SETCAL never
writes `st`. -/
def Obligations.FacadeStateMachine : Prop :=
  (∀ s : State, s.rst = false → s.st = .ready → (tick s).st = .ready ∧ ∃ t, step s = .next t ∧ t.st = .ready) ∧
  (∀ (i : Instr) (s t : State), exec i s = .next t → s.st = .uninit → t.st = .ready →
    ∃ a b evs, i = .init a b ∧
      pinOk s.params.pinValid a = true ∧ pinOk s.params.pinValid b = true ∧
      emitted t = emitted s ++ evs ∧ (evs.filterMap levelOf).getLast? = some s.params.ackLevel) ∧
  ∀ (s : State) (lo hi : BitVec 16), ∃ t, exec (.setcal lo hi) s = .next t ∧ t.st = s.st

/-- 10_state.md R10 (the "written by" column), R13, R14, R16, R17, R18: the frame of every command, in every state: what
only INIT writes, what only SETCAL writes, what only WRCODE and WRCUR write, and what no command writes. -/
def Obligations.WhatEachCommandMayWrite : Prop :=
  ∀ (i : Instr) (s t : State), exec i s = .next t →
    SameControl s t ∧
    ((∀ a b, i ≠ .init a b) → t.st = s.st ∧ SameBinding s t) ∧
    ((∀ lo hi, i ≠ .setcal lo hi) → SameCal s t) ∧
    (s.calEn = true → t.calEn = true) ∧
    ((∀ c, i ≠ .wrcode c) → (∀ c, i ≠ .wrcur c) → t.lastCode = s.lastCode) ∧
    (((∃ lo hi, i = .setcal lo hi) ∨ (∃ c, i = .cvtc2i c) ∨ ∃ c, i = .cvti2c c) → NoEvent s t)

/-- 20_memory.md R41, 10_state.md R25: a step adds events after those already emitted, and writes neither a parameter nor
the level of `rst`. -/
def Obligations.StepOnlyAppendsToTheTrace : Prop :=
  ∀ s t : State, step s = .next t →
    (∃ evs, emitted t = emitted s ++ evs) ∧ t.params = s.params ∧ t.rst = s.rst

/-- 00_scope.md R6, 10_state.md R25: the samples of a command return the environment's next levels, in order, each of
them once. -/
def Obligations.EachSampleTakesTheNextLevel : Prop :=
  ∀ (i : Instr) (s t : State), exec i s = .next t →
    ∃ evs, emitted t = emitted s ++ evs ∧
      evs.filterMap levelOf = (List.range (sampleCount evs)).map (envLevel s) ∧
      t.levels = s.levels.drop (sampleCount evs) ∧ t.draws = s.draws + sampleCount evs

/-- 10_state.md R14, 40_bus_primitives.md R79: no command puts the clock line in input mode or samples it. -/
def Obligations.ClockLineIsNeverReleasedOrSampled : Prop :=
  ∀ (i : Instr) (s t : State), exec i s = .next t →
    ∃ evs, emitted t = emitted s ++ evs ∧
      ∀ e ∈ evs, e ≠ .mode .scl .inPu ∧ ∀ v, e ≠ .sample .scl v

/-- 20_memory.md R40, 40_bus_primitives.md R75: every sample is taken while the data line is in input mode. -/
def Obligations.SamplesOnlyWhileDataLineReleased : Prop :=
  ∀ (i : Instr) (s t : State) (before after : List Event) (v : Level), exec i s = .next t →
    emitted t = emitted s ++ before ++ [.sample .sda v] ++ after →
      (pinsAfterAll (pinsOf s) before).sdaMode = .inPu

/-! ### Bus primitives (file 40) -/

/-- 40_bus_primitives.md R67 (decision D8: the order of the first two writes, the last two holds): START. -/
def Obligations.StartConditionEvents : Prop :=
  ∀ s : State, s.st = .ready → ∃ t, exec .start s = .next t ∧
    emitted t = emitted s ++
      ([.drive .sda true, .drive .scl true, .waitUs (holdMicros s.params s.params.holds.s1),
        .drive .sda false, .waitUs (holdMicros s.params s.params.holds.s2),
        .drive .scl false, .waitUs (holdMicros s.params s.params.holds.s3)] : List Event) ∧
    t.sdaOut = false ∧ t.sclOut = false ∧ t.sdaMode = s.sdaMode ∧ t.res = 0 ∧
    t.pollCnt = s.pollCnt ∧ t.levels = s.levels ∧ t.draws = s.draws ∧ BusFrame s t

/-- 40_bus_primitives.md R68 (decision D9: the holds): STOP. -/
def Obligations.StopConditionEvents : Prop :=
  ∀ s : State, s.st = .ready → ∃ t, exec .stop s = .next t ∧
    emitted t = emitted s ++
      ([.drive .sda false, .waitUs (holdMicros s.params s.params.holds.p1),
        .drive .scl true, .waitUs (holdMicros s.params s.params.holds.p2),
        .drive .sda true, .waitUs (holdMicros s.params s.params.holds.p3)] : List Event) ∧
    t.sdaOut = true ∧ t.sclOut = true ∧ t.sdaMode = s.sdaMode ∧ t.res = 0 ∧
    t.pollCnt = s.pollCnt ∧ t.levels = s.levels ∧ t.draws = s.draws ∧ BusFrame s t

/-- 40_bus_primitives.md R69, R70, R71, 20_memory.md R32, R33 (decisions D10, D11): a unit of `n` bits: `n` bit cycles,
most significant bit of the low `n` first; then, in every environment, an acknowledgment read whose level is the result,
or the tail of a unit whose acknowledgment is skipped. -/
def Obligations.UnitTransfer : Prop :=
  ∀ (s : State) (data : Byte) (n : Nat), s.st = .ready → 1 ≤ n → n ≤ 8 →
    (∀ exp : Level, ∃ t evs r, exec (.xferAck data n exp) s = .next t ∧
      AckTrace s.params exp evs r ∧ emitted t = emitted s ++ traceBits s.params data n ++ evs ∧
      t.sdaOut = data.getLsbD 0 ∧ t.sclOut = false ∧ t.sdaMode = .out ∧ t.res = BitVec.ofNat 32 r.toNat ∧
      BusFrame s t) ∧
    ∃ t, exec (.xferNoack data n) s = .next t ∧
      emitted t = emitted s ++ traceBits s.params data n ++ [.drive .sda s.params.noackSdaLevel, .drive .scl true] ∧
      t.sdaOut = s.params.noackSdaLevel ∧ t.sclOut = true ∧ t.sdaMode = s.sdaMode ∧ t.res = 0 ∧
      t.pollCnt = s.pollCnt ∧ t.levels = s.levels ∧ t.draws = s.draws ∧ BusFrame s t

/-- 40_bus_primitives.md R73 to R78 (decision D12: the holds, the loop, the final sample): the acknowledgment read, in
every environment: release, poll, final sample, restore. `poll_cnt` counts the samples of the poll that differ; the latch
of the data line is not written. -/
def Obligations.AckReadReleasesPollsSamplesRestores : Prop :=
  ∀ (s : State) (exp : Level), s.st = .ready →
    ∃ t poll r, exec (.ackrd exp) s = .next t ∧ PollTrace s.params exp poll ∧
      emitted t = emitted s ++
        ([.mode .sda .inPu, .waitUs (holdMicros s.params s.params.holds.a1),
          .drive .scl true, .waitUs (holdMicros s.params s.params.holds.a2)] : List Event) ++ poll ++
        ([.sample .sda r, .waitUs (holdMicros s.params s.params.holds.a3), .drive .scl false,
          .waitUs (holdMicros s.params s.params.holds.a4), .mode .sda .out] : List Event) ∧
      t.pollCnt = (poll.filterMap levelOf).count (!exp) ∧
      t.sdaOut = s.sdaOut ∧ t.sclOut = false ∧ t.sdaMode = .out ∧ t.res = BitVec.ofNat 32 r.toNat ∧ BusFrame s t

/-- 40_bus_primitives.md R76, R77: if the first sample that equals `exp` is the `k + 1`-th of at most `ACK_POLL_MAX`, the
poll is `k + 1` samples and `k` waits, and the result is one further sample, whatever it is. -/
def Obligations.AckReadEndsAtTheFirstMatch : Prop :=
  ∀ (s : State) (exp r : Level) (k : Nat) (rest : List Level), s.st = .ready → k < s.params.ackPollMax →
    s.levels = List.replicate k (!exp) ++ exp :: r :: rest →
      ∃ t, exec (.ackrd exp) s = .next t ∧
        emitted t = emitted s ++ traceAck s.params (traceMisses s.params exp k ++ [.sample .sda exp]) r ∧
        t.res = BitVec.ofNat 32 r.toNat ∧ t.pollCnt = k ∧ t.levels = rest ∧ t.draws = s.draws + (k + 2)

/-- 40_bus_primitives.md R76, R77, 70_reset_and_hazards.md R147: a poll that runs to its bound sets nothing and raises
nothing; the result is the level of the final sample, whatever it is. -/
def Obligations.AckReadTimesOutWithoutASignal : Prop :=
  ∀ (s : State) (exp r : Level) (rest : List Level), s.st = .ready →
    s.levels = List.replicate s.params.ackPollMax (!exp) ++ r :: rest →
      ∃ t, exec (.ackrd exp) s = .next t ∧
        emitted t = emitted s ++ traceAck s.params (traceMisses s.params exp s.params.ackPollMax) r ∧
        t.res = BitVec.ofNat 32 r.toNat ∧ t.pollCnt = s.params.ackPollMax ∧ t.levels = rest ∧
        t.draws = s.draws + (s.params.ackPollMax + 1)

/-- 40_bus_primitives.md R77 (an inference the spec marks as derived): an acknowledgment read takes between 2 and
`ACK_POLL_MAX + 1` samples, in every environment. -/
def Obligations.AckReadSampleCountIsBounded : Prop :=
  ∀ (s t : State) (exp : Level), s.st = .ready → 1 ≤ s.params.ackPollMax → exec (.ackrd exp) s = .next t →
    ∃ evs, emitted t = emitted s ++ evs ∧ 2 ≤ sampleCount evs ∧ sampleCount evs ≤ s.params.ackPollMax + 1

/-! ### Conversion (file 41) -/

/-- 41_conversion.md R87: the rounding test on the tenfold remainder is round to nearest with a tie rounded up. -/
def Obligations.RoundHalfUpDivision : Prop :=
  ∀ num den : Nat, 0 < den →
    rhu num den = (if num % den * 10 ≥ 5 * den then num / den + 1 else num / den) ∧
    rhu num den = (2 * num + den) / (2 * den)

/-- 41_conversion.md R88, R95: CVTC2I in either state: the operand masked to 12 bits, times 25·K over 4095, rounded to
the nearest unit; `res` only. For a K with 25·K at or above 2^32, where the spec states no result, that `res` holds the
low 32 bits of that number is the model's choice (log 13). -/
def Obligations.CodeToCurrentCommand : Prop :=
  ∀ (s : State) (code : BitVec 16), ∃ t, exec (.cvtc2i code) s = .next t ∧
    t.res = BitVec.ofNat 32 ((2 * (code.toNat % 4096 * 25 * s.params.k) + 4095) / (2 * 4095)) ∧
    NoEvent s t ∧ SameControl s t ∧ SameBinding s t ∧ SameCal s t ∧ t.st = s.st ∧ t.lastCode = s.lastCode

/-- 41_conversion.md R86, R89, R90, R91, R96: CVTI2C in either state: the clamp, the calibrated path in the closed band 4
to 20 mA when calibration is on, direct scaling otherwise, each rounded to the nearest code with ties up; `res` only. -/
def Obligations.CurrentToCodeCommand : Prop :=
  ∀ (s : State) (cur : BitVec 32), 1 ≤ s.params.k → CalOrdered s →
    ∃ t, exec (.cvti2c cur) s = .next t ∧
      (cur.toInt < 0 → t.res = 0) ∧
      (25 * (s.params.k : Int) < cur.toInt → t.res = 4095) ∧
      (s.calEn = true → 4 * (s.params.k : Int) ≤ cur.toInt → cur.toInt ≤ 20 * s.params.k →
        t.res = BitVec.ofNat 32 (s.calLo.toNat +
          (2 * ((cur.toInt.toNat - 4 * s.params.k) * (s.calHi.toNat - s.calLo.toNat)) + 16 * s.params.k) /
            (2 * (16 * s.params.k)))) ∧
      (0 ≤ cur.toInt → cur.toInt ≤ 25 * s.params.k →
        ¬ (s.calEn = true ∧ 4 * (s.params.k : Int) ≤ cur.toInt ∧ cur.toInt ≤ 20 * s.params.k) →
        t.res = BitVec.ofNat 32 ((2 * (cur.toInt.toNat * 4095) + 25 * s.params.k) / (2 * (25 * s.params.k)))) ∧
      NoEvent s t ∧ SameControl s t ∧ SameBinding s t ∧ SameCal s t ∧ t.st = s.st ∧ t.lastCode = s.lastCode

/-- 41_conversion.md R92 (an inference the spec marks as derived): a converted code is 0 to 4095, so the 12-bit mask never
changes it. -/
def Obligations.ConvertedCodeFitsTwelveBits : Prop :=
  ∀ (s t : State) (cur : BitVec 32), 1 ≤ s.params.k → CalOrdered s → exec (.cvti2c cur) s = .next t →
    t.res.toNat ≤ 4095

/-- 41_conversion.md R97, for every current format fine enough (25·K > 4095) that a 32-bit operand can hold: CVTI2C of
the result of CVTC2I recovers the code exactly on the direct path. The spec marks the tolerance 0 as derived, for
K = 1000. -/
def Obligations.RoundTripRecoversTheCode : Prop :=
  ∀ (s : State) (code : BitVec 16), s.calEn = false → 164 ≤ s.params.k → 25 * s.params.k < 2 ^ 31 →
    code.toNat ≤ 4095 →
      ∃ t u, exec (.cvtc2i code) s = .next t ∧ exec (.cvti2c t.res) t = .next u ∧ u.res.toNat = code.toNat

/-- 41_conversion.md R89, R91: at the two ends of the band, which are inside it, the result is the calibration code. -/
def Obligations.BandEndsGiveTheCalibrationCodes : Prop :=
  ∀ s : State, s.calEn = true → CalOrdered s → 1 ≤ s.params.k → 20 * s.params.k < 2 ^ 31 →
    (∃ t, exec (.cvti2c (BitVec.ofNat 32 (4 * s.params.k))) s = .next t ∧ t.res.toNat = s.calLo.toNat) ∧
    ∃ t, exec (.cvti2c (BitVec.ofNat 32 (20 * s.params.k))) s = .next t ∧ t.res.toNat = s.calHi.toNat

/-! ### Device commands (file 42) -/

/-- 42_device_commands.md R103, 30_encoding.md R55, 60_exceptions.md R121, R122 (decisions D3, D16, D17): INIT. With an
identifier that is no valid pin `res` is 1 and nothing else changes. With valid pins, in every environment: the pins are
bound, the presence-check frame is sent, and the level its acknowledgment read returns decides. -/
def Obligations.InitIsGatedByThePresenceCheck : Prop :=
  ∀ (s : State) (a b : BitVec 16), s.st = .uninit →
    (¬ (pinOk s.params.pinValid a = true ∧ pinOk s.params.pinValid b = true) →
      exec (.init a b) s = .next { s with res := 1 }) ∧
    (pinOk s.params.pinValid a = true → pinOk s.params.pinValid b = true →
      ∃ t unit r, exec (.init a b) s = .next t ∧
        UnitTrace s.params (BitVec.ofNat 8 (2 * s.params.busAddr.toNat)) 8 s.params.ackLevel unit r ∧
        emitted t = emitted s ++ [.mode .scl .out, .mode .sda .out] ++ traceS s.params ++ unit ++ traceP s.params ∧
        t.pinScl = a ∧ t.pinSda = b ∧ t.sclMode = .out ∧ t.sdaMode = .out ∧ t.sclOut = true ∧ t.sdaOut = true ∧
        (r = s.params.ackLevel → t.st = .ready ∧ t.res = 0) ∧
        (r ≠ s.params.ackLevel → t.st = .uninit ∧ t.res = 2) ∧
        SameControl s t ∧ SameCal s t ∧ t.lastCode = s.lastCode)

/-- 95_test_vectors.md T9, 42_device_commands.md R103: INIT succeeds when the level matches on the first iteration, and
fails with DeviceNotFound when it never matches within the bound. -/
def Obligations.InitSucceedsAtOnceAndFailsOnSilence : Prop :=
  ∀ (s : State) (a b : BitVec 16) (rest : List Level), s.st = .uninit → 1 ≤ s.params.ackPollMax →
    pinOk s.params.pinValid a = true → pinOk s.params.pinValid b = true →
      (s.levels = s.params.ackLevel :: s.params.ackLevel :: rest →
        ∃ t, exec (.init a b) s = .next t ∧ t.st = .ready ∧ t.res = 0 ∧ t.levels = rest) ∧
      (s.levels = List.replicate (s.params.ackPollMax + 1) (!s.params.ackLevel) ++ rest →
        ∃ t, exec (.init a b) s = .next t ∧ t.st = .uninit ∧ t.res = 2 ∧ t.levels = rest)

/-- 42_device_commands.md R104, 60_exceptions.md R123: SETCAL in either state. -/
def Obligations.SetCalibrationAcceptsOrderedPairs : Prop :=
  ∀ (s : State) (lo hi : BitVec 16), ∃ t, exec (.setcal lo hi) s = .next t ∧
    (lo.toNat < hi.toNat ∧ hi.toNat ≤ 4095 →
      t.calEn = true ∧ t.calLo.toNat = lo.toNat ∧ t.calHi.toNat = hi.toNat ∧ t.res = 0) ∧
    (lo.toNat ≥ hi.toNat ∨ hi.toNat > 4095 → SameCal s t ∧ t.res = 1) ∧
    NoEvent s t ∧ SameControl s t ∧ SameBinding s t ∧ t.st = s.st ∧ t.lastCode = s.lastCode

/-- 42_device_commands.md R105, R101, 30_encoding.md R54, 20_memory.md R34, R35, 60_exceptions.md R124 (decisions D22,
D26): WRCODE. Above 4095: no event, and the current computed from the unchanged `last_code`. In range, in every
environment: `last_code`, the frame of four bytes, and the current of the code, acknowledged or not.
For a K with 25·K at or above 2^32, where the spec states no result, that `res` holds the low 32 bits of the current is
the model's choice (log 13). -/
def Obligations.WrcodeSendsTheCode : Prop :=
  ∀ (s : State) (code : BitVec 16), s.st = .ready →
    (4095 < code.toNat → exec (.wrcode code) s = .next { s with
      res := BitVec.ofNat 32 ((2 * (s.lastCode.toNat * 25 * s.params.k) + 4095) / (2 * 4095)) }) ∧
    (code.toNat ≤ 4095 → ∃ t evs, exec (.wrcode code) s = .next t ∧
      FrameTrace s.params s.params.ackLevel
        [BitVec.ofNat 8 (2 * s.params.busAddr.toNat), s.params.regSelect,
         BitVec.ofNat 8 (code.toNat % 16 * 16), BitVec.ofNat 8 (code.toNat / 16)] evs ∧
      emitted t = emitted s ++ evs ∧ t.lastCode.toNat = code.toNat ∧
      t.res = BitVec.ofNat 32 ((2 * (code.toNat * 25 * s.params.k) + 4095) / (2 * 4095)) ∧
      t.sclOut = true ∧ t.sdaOut = true ∧ t.sdaMode = .out ∧
      SameControl s t ∧ SameBinding s t ∧ SameCal s t ∧ t.st = s.st)

/-- 42_device_commands.md R106 (decision D22): WRCUR returns the code that CVTI2C gives for the current, keeps it in
`last_code` and sends it, in every environment. -/
def Obligations.WrcurSendsTheConvertedCode : Prop :=
  ∀ (s : State) (cur : BitVec 32), s.st = .ready → 1 ≤ s.params.k → CalOrdered s →
    ∃ u t evs, exec (.cvti2c cur) s = .next u ∧ exec (.wrcur cur) s = .next t ∧
      t.res = u.res ∧ t.lastCode.toNat = u.res.toNat ∧
      FrameTrace s.params s.params.ackLevel
        [BitVec.ofNat 8 (2 * s.params.busAddr.toNat), s.params.regSelect,
         BitVec.ofNat 8 (u.res.toNat % 16 * 16), BitVec.ofNat 8 (u.res.toNat / 16)] evs ∧
      emitted t = emitted s ++ evs ∧ t.sclOut = true ∧ t.sdaOut = true ∧ t.sdaMode = .out ∧
      SameControl s t ∧ SameBinding s t ∧ SameCal s t ∧ t.st = s.st

/-- 42_device_commands.md R106 (decision D22): "convert, then exactly the WRCODE sequence": WRCUR leaves what WRCODE of
the converted code leaves, except that `res` is the code. -/
def Obligations.WrcurIsConvertThenWrcode : Prop :=
  ∀ (s : State) (cur : BitVec 32), s.st = .ready → 1 ≤ s.params.k → CalOrdered s →
    ∃ u v, exec (.cvti2c cur) s = .next u ∧ exec (.wrcode (u.res.setWidth 16)) s = .next v ∧
      exec (.wrcur cur) s = .next { v with res := u.res }

/-- 42_device_commands.md R107, 30_encoding.md R56 (decisions D3, D19; 90_conflicts.md C1, C2): PERSIST, in every
environment: the phases in order, with the byte values, widths and endings of the table. -/
def Obligations.PersistSendsTheStoreSequence : Prop :=
  ∀ s : State, s.st = .ready → ∃ t f2 f3 f5, exec .persist s = .next t ∧
    FrameTrace s.params s.params.expCmd [0x10, 0x03] f2 ∧
    FrameTrace s.params s.params.expUnlock
      [BitVec.ofNat 8 (2 * s.params.busAddr.toNat), 0, 0, 0, 0, 0, 0, 0, 0] f3 ∧
    FrameTrace s.params s.params.expCmd [0x10, 0x00] f5 ∧
    emitted t = emitted s ++ traceHeader s.params ++ f2 ++ f3 ++ [.waitMs s.params.tCommitMs] ++
      traceHeader s.params ++ f5 ∧
    t.sclOut = true ∧ t.sdaOut = true ∧ t.sdaMode = .out ∧ t.res = 0 ∧ BusFrame s t

/-- 30_encoding.md R54, 20_memory.md R32, R40: what a receiver on the two lines sees of WRCODE, from an idle bus, for every
list of sampled levels and however long the polls run, with the levels of the released lines fixed over the trace: a
start edge, the four bytes most significant bit first, each with the clock of its acknowledgment, and a stop edge (with
the clock that the stop condition raises). That the released levels are fixed is the model's choice (log 20): a data line
that changes in the middle of a poll is an edge with the clock high, which this does not show. -/
def Obligations.WriteFrameOnTheBus : Prop :=
  ∀ (s : State) (code : BitVec 16) (rel : Released), s.st = .ready → code.toNat ≤ 4095 →
    pinsOf s = ⟨.out, true, .out, true⟩ →
      ∃ t evs, exec (.wrcode code) s = .next t ∧ emitted t = emitted s ++ evs ∧
        marks rel (pinsOf s) evs = marksOfFrame rel
          [BitVec.ofNat 8 (2 * s.params.busAddr.toNat), s.params.regSelect,
           BitVec.ofNat 8 (code.toNat % 16 * 16), BitVec.ofNat 8 (code.toNat / 16)] ∧
        pinsOf t = ⟨.out, true, .out, true⟩

/-- 42_device_commands.md R107, 70_reset_and_hazards.md R146 (a), (b), 40_bus_primitives.md R71: what a receiver sees of
PERSIST, from an idle bus, for every list of sampled levels and both values of `NOACK_SDA_LEVEL`, with the levels of the
released lines fixed over the trace. After each header the tail clocks its level, and the stop condition that follows is
entered with the clock high. That the released levels are fixed is the model's choice (log 20): a data line that changes
in the middle of a poll is an edge with the clock high, which this does not show. -/
def Obligations.PersistOnTheBus : Prop :=
  ∀ (s : State) (rel : Released), s.st = .ready → pinsOf s = ⟨.out, true, .out, true⟩ →
    ∃ t evs, exec .persist s = .next t ∧ emitted t = emitted s ++ evs ∧
      marks rel (pinsOf s) evs =
        marksOfHeader s.params.noackSdaLevel ++ marksOfFrame rel [0x10, 0x03] ++
        marksOfFrame rel [BitVec.ofNat 8 (2 * s.params.busAddr.toNat), 0, 0, 0, 0, 0, 0, 0, 0] ++
        marksOfHeader s.params.noackSdaLevel ++ marksOfFrame rel [0x10, 0x00]

/-- 70_reset_and_hazards.md R146 (an inference the spec marks as derived), cases (a) to (g), with both lines in output
mode: what the bus sees of a primitive entered in another line state than the expected one. That ACKRD shows its one edge
and no other rests on released levels that are fixed over the trace, the model's choice (log 20).
`AcknowledgedPrimitivesInOtherLineStates` has the unit that ends with an acknowledgment read, and the read whose released
line falls. -/
def Obligations.PrimitivesInOtherLineStates : Prop :=
  ∀ (s : State) (rel : Released), s.st = .ready → s.sclMode = .out → s.sdaMode = .out →
    (∃ t evs, exec .stop s = .next t ∧ emitted t = emitted s ++ evs ∧
      (s.sclOut = true → s.sdaOut = true → marks rel (pinsOf s) evs = [.startEdge, .stopEdge]) ∧
      (s.sclOut = true → s.sdaOut = false → marks rel (pinsOf s) evs = [.stopEdge]) ∧
      (s.sclOut = false → marks rel (pinsOf s) evs = [.clock false, .stopEdge])) ∧
    (∃ t evs, exec .start s = .next t ∧ emitted t = emitted s ++ evs ∧
      (s.sclOut = true → s.sdaOut = true → marks rel (pinsOf s) evs = [.startEdge]) ∧
      (s.sclOut = true → s.sdaOut = false → marks rel (pinsOf s) evs = [.stopEdge, .startEdge]) ∧
      (s.sclOut = false → marks rel (pinsOf s) evs = [.clock true, .startEdge])) ∧
    (∀ (data : Byte) (n : Nat), n < 8 → s.sclOut = true →
      ∃ t evs, exec (.xferNoack data (n + 1)) s = .next t ∧ emitted t = emitted s ++ evs ∧
        marks rel (pinsOf s) evs =
          (if s.sdaOut = data.getLsbD n then [] else if s.sdaOut = true then [.startEdge] else [.stopEdge]) ++
          marksOfBits data n ++ [.clock s.params.noackSdaLevel]) ∧
    ∀ exp : Level, s.sclOut = true → ∃ t evs, exec (.ackrd exp) s = .next t ∧ emitted t = emitted s ++ evs ∧
      (s.sdaOut = false → rel.sda = true → marks rel (pinsOf s) evs = [.stopEdge]) ∧
      (s.sdaOut = rel.sda → marks rel (pinsOf s) evs = [])

/-- 42_device_commands.md R109: the levels the environment returns reach nothing of WRCODE, WRCUR and PERSIST but the
environment's own position, the poll counter and the trace. -/
def Obligations.SampledLevelsReachNoState : Prop :=
  ∀ (s : State) (i : Instr) (ls : List Level) (n : Nat),
    ((∃ c, i = .wrcode c) ∨ (∃ c, i = .wrcur c) ∨ i = .persist) →
      ∃ t u, exec i s = .next t ∧ exec i { s with levels := ls, draws := n } = .next u ∧
        u = { t with levels := u.levels, draws := u.draws, trace := u.trace, pollCnt := u.pollCnt }

/-- 10_state.md R13: the pin identifiers only name the lines: no command but INIT depends on them, in its trace, its
result or anything else. -/
def Obligations.PinIdentifiersOnlyNameTheLines : Prop :=
  ∀ (i : Instr) (s t : State) (a b : BitVec 16), (∀ x y, i ≠ .init x y) → exec i s = .next t →
    exec i { s with pinScl := a, pinSda := b } = .next { t with pinScl := a, pinSda := b }

/-! ### Counts (file 70) -/

/-- 70_reset_and_hazards.md R152 (an inference the spec marks as derived), over the hold slots: WRCODE with every sample
acknowledged at once: 245 events, 8 samples, and the sum of its waits. -/
def Obligations.AcknowledgedWriteFrameCounts : Prop :=
  ∀ (s : State) (code : BitVec 16) (rest : List Level), s.st = .ready → code.toNat ≤ 4095 →
    1 ≤ s.params.ackPollMax → s.levels = List.replicate 8 s.params.ackLevel ++ rest →
      ∃ t evs, exec (.wrcode code) s = .next t ∧ emitted t = emitted s ++ evs ∧
        evs.length = 245 ∧ sampleCount evs = 8 ∧ waitedMs evs = 0 ∧
        let d := holdMicros s.params
        let h := s.params.holds
        waitedUs evs = d h.s1 + d h.s2 + d h.s3 +
          4 * (8 * (d h.b1 + d h.b2 + d h.b3) + (d h.a1 + d h.a2 + d h.a3 + d h.a4)) +
          (d h.p1 + d h.p2 + d h.p3)

/-- 40_bus_primitives.md R80, 70_reset_and_hazards.md R152: every command terminates: it emits at most as many events and
takes at most as many samples as a PERSIST whose thirteen polls all run to the bound. -/
def Obligations.EveryCommandEmitsBoundedlyManyEvents : Prop :=
  ∀ (i : Instr) (s : State), i.WellFormed → 1 ≤ s.params.ackPollMax →
    ∃ t evs, exec i s = .next t ∧ emitted t = emitted s ++ evs ∧
      evs.length ≤ 847 + 26 * s.params.ackPollMax ∧ sampleCount evs ≤ 13 * (s.params.ackPollMax + 1)

/-! ### More of the bus (file 70) -/

/-- 70_reset_and_hazards.md R146 (an inference the spec marks as derived), cases (e) and (f), with both lines in output
mode and the clock high, beside `PrimitivesInOtherLineStates`: a unit that ends with an acknowledgment read shows the edge
of its first write, if that write changes the data line, no clock for its first bit, a clock for each other bit and the
clock of the read; a read entered with the data line driven high shows a start edge when the released line is low. Both
rest on released levels that are fixed over the trace, the model's choice (log 20). -/
def Obligations.AcknowledgedPrimitivesInOtherLineStates : Prop :=
  ∀ (s : State) (rel : Released) (exp : Level),
    s.st = .ready → s.sclMode = .out → s.sdaMode = .out → s.sclOut = true →
    (∀ (data : Byte) (n : Nat), n < 8 →
      ∃ t evs, exec (.xferAck data (n + 1) exp) s = .next t ∧ emitted t = emitted s ++ evs ∧
        marks rel (pinsOf s) evs =
          (if s.sdaOut = data.getLsbD n then [] else if s.sdaOut = true then [.startEdge] else [.stopEdge]) ++
          marksOfBits data n ++ [.clock rel.sda]) ∧
    (s.sdaOut = true → rel.sda = false →
      ∃ t evs, exec (.ackrd exp) s = .next t ∧ emitted t = emitted s ++ evs ∧
        marks rel (pinsOf s) evs = [.startEdge])
end

