-- ==== Sys2Proof/Laws/Operands.lean ====
section
/-! SUPPORT. The small lemmas of the operand forms, the tests and the converter's clamp: each as arithmetic on the
numbers the spec names. -/

namespace Sys2Proof.Machine

/-! ### The tests (42_device_commands.md R108) -/

theorem pinsOk_iff (p : Params) (a b : BitVec 16) :
    pinsOk p a b = true ↔ pinOk p.pinValid a = true ∧ pinOk p.pinValid b = true := by
  simp [pinsOk]

theorem calOk_iff (lo hi : BitVec 16) : calOk lo hi = true ↔ lo.toNat < hi.toNat ∧ hi.toNat ≤ 4095 := by
  simp [calOk]

theorem codeOk_iff (code : BitVec 16) : codeOk code = true ↔ code.toNat ≤ 4095 := by
  simp [codeOk]

theorem inBand_iff (k : Nat) (calEn : Bool) (j : Nat) :
    inBand k calEn j = true ↔ calEn = true ∧ 4 * k ≤ j ∧ j ≤ 20 * k := by
  simp [inBand, and_assoc]

/-! ### The operand forms (20_memory.md R34, R35) -/

theorem low12_toNat (v : BitVec 16) : (low12 v).toNat = v.toNat % 4096 := by
  simp [low12]

theorem addrByte_eq (p : Params) : addrByte p = BitVec.ofNat 8 (2 * p.busAddr.toNat) := by
  apply BitVec.eq_of_toNat_eq
  have h : p.busAddr.toNat < 128 := p.busAddr.isLt
  rw [addrByte, BitVec.toNat_append]
  simp [Nat.shiftLeft_eq]
  omega

theorem codeLowByte_eq (c : BitVec 12) : codeLowByte c = BitVec.ofNat 8 (c.toNat % 16 * 16) := by
  apply BitVec.eq_of_toNat_eq
  rw [codeLowByte, BitVec.toNat_append]
  simp [Nat.shiftLeft_eq]
  omega

theorem codeHighByte_eq (c : BitVec 12) : codeHighByte c = BitVec.ofNat 8 (c.toNat / 16) := by
  apply BitVec.eq_of_toNat_eq
  simp [codeHighByte, Nat.shiftRight_eq_div_pow]

/-! ### The guard (42_device_commands.md R100) -/

theorem guarded_of_eq (need : DevState) (body : State → State) (s : State) (h : s.st = need) :
    guarded need body s = body s := by
  simp [guarded, h]

theorem guarded_of_ne (need : DevState) (body : State → State) (s : State) (h : s.st ≠ need) :
    guarded need body s = illegalResponse s := by
  simp [guarded, h]

/-! ### The clamp (41_conversion.md R86) -/

theorem clampCurrent_of_neg (k : Nat) (cur : Int) (h : cur < 0) : clampCurrent k cur = 0 := by
  simp [clampCurrent, h]

theorem clampCurrent_of_gt (k : Nat) (cur : Int) (h : 25 * (k : Int) < cur) : clampCurrent k cur = 25 * k := by
  have h0 : ¬ cur < 0 := by omega
  simp only [clampCurrent, h0, if_false]
  rw [if_pos]
  push_cast
  omega

theorem clampCurrent_of_mem (k : Nat) (cur : Int) (h0 : 0 ≤ cur) (h : cur ≤ 25 * (k : Int)) :
    clampCurrent k cur = cur.toNat := by
  have h1 : ¬ cur < 0 := by omega
  simp only [clampCurrent, h1, if_false]
  rw [if_neg]
  push_cast
  omega

theorem clampCurrent_le (k : Nat) (cur : Int) : clampCurrent k cur ≤ 25 * k := by
  rcases lt_or_ge cur 0 with h | h
  · simp [clampCurrent_of_neg k cur h]
  · rcases lt_or_ge (25 * (k : Int)) cur with h' | h'
    · exact (clampCurrent_of_gt k cur h').le
    · rw [clampCurrent_of_mem k cur h h']
      omega

end Sys2Proof.Machine
end

