-- ==== Sys2Proof/Laws/State.lean ====
section
/-! SUPPORT. One lemma per field per update of the state, true by rfl, so that no later proof unfolds an update. -/

namespace Sys2Proof.Machine

/-! `setMode .scl m s` -/

@[simp] theorem setMode_scl_st (m : LineMode) (s : State) : (setMode .scl m s).st = s.st := rfl
@[simp] theorem setMode_scl_busy (m : LineMode) (s : State) : (setMode .scl m s).busy = s.busy := rfl
@[simp] theorem setMode_scl_pinScl (m : LineMode) (s : State) : (setMode .scl m s).pinScl = s.pinScl := rfl
@[simp] theorem setMode_scl_pinSda (m : LineMode) (s : State) : (setMode .scl m s).pinSda = s.pinSda := rfl
@[simp] theorem setMode_scl_sclMode (m : LineMode) (s : State) : (setMode .scl m s).sclMode = m := rfl
@[simp] theorem setMode_scl_sclOut (m : LineMode) (s : State) : (setMode .scl m s).sclOut = s.sclOut := rfl
@[simp] theorem setMode_scl_sdaMode (m : LineMode) (s : State) : (setMode .scl m s).sdaMode = s.sdaMode := rfl
@[simp] theorem setMode_scl_sdaOut (m : LineMode) (s : State) : (setMode .scl m s).sdaOut = s.sdaOut := rfl
@[simp] theorem setMode_scl_calEn (m : LineMode) (s : State) : (setMode .scl m s).calEn = s.calEn := rfl
@[simp] theorem setMode_scl_calLo (m : LineMode) (s : State) : (setMode .scl m s).calLo = s.calLo := rfl
@[simp] theorem setMode_scl_calHi (m : LineMode) (s : State) : (setMode .scl m s).calHi = s.calHi := rfl
@[simp] theorem setMode_scl_lastCode (m : LineMode) (s : State) : (setMode .scl m s).lastCode = s.lastCode := rfl
@[simp] theorem setMode_scl_res (m : LineMode) (s : State) : (setMode .scl m s).res = s.res := rfl
@[simp] theorem setMode_scl_pollCnt (m : LineMode) (s : State) : (setMode .scl m s).pollCnt = s.pollCnt := rfl
@[simp] theorem setMode_scl_seq (m : LineMode) (s : State) : (setMode .scl m s).seq = s.seq := rfl
@[simp] theorem setMode_scl_rst (m : LineMode) (s : State) : (setMode .scl m s).rst = s.rst := rfl
@[simp] theorem setMode_scl_words (m : LineMode) (s : State) : (setMode .scl m s).words = s.words := rfl
@[simp] theorem setMode_scl_levels (m : LineMode) (s : State) : (setMode .scl m s).levels = s.levels := rfl
@[simp] theorem setMode_scl_draws (m : LineMode) (s : State) : (setMode .scl m s).draws = s.draws := rfl
@[simp] theorem setMode_scl_trace (m : LineMode) (s : State) : (setMode .scl m s).trace = .mode .scl m :: s.trace := rfl
@[simp] theorem setMode_scl_params (m : LineMode) (s : State) : (setMode .scl m s).params = s.params := rfl

/-! `drive .scl v s` -/

@[simp] theorem drive_scl_st (v : Level) (s : State) : (drive .scl v s).st = s.st := rfl
@[simp] theorem drive_scl_busy (v : Level) (s : State) : (drive .scl v s).busy = s.busy := rfl
@[simp] theorem drive_scl_pinScl (v : Level) (s : State) : (drive .scl v s).pinScl = s.pinScl := rfl
@[simp] theorem drive_scl_pinSda (v : Level) (s : State) : (drive .scl v s).pinSda = s.pinSda := rfl
@[simp] theorem drive_scl_sclMode (v : Level) (s : State) : (drive .scl v s).sclMode = s.sclMode := rfl
@[simp] theorem drive_scl_sclOut (v : Level) (s : State) : (drive .scl v s).sclOut = v := rfl
@[simp] theorem drive_scl_sdaMode (v : Level) (s : State) : (drive .scl v s).sdaMode = s.sdaMode := rfl
@[simp] theorem drive_scl_sdaOut (v : Level) (s : State) : (drive .scl v s).sdaOut = s.sdaOut := rfl
@[simp] theorem drive_scl_calEn (v : Level) (s : State) : (drive .scl v s).calEn = s.calEn := rfl
@[simp] theorem drive_scl_calLo (v : Level) (s : State) : (drive .scl v s).calLo = s.calLo := rfl
@[simp] theorem drive_scl_calHi (v : Level) (s : State) : (drive .scl v s).calHi = s.calHi := rfl
@[simp] theorem drive_scl_lastCode (v : Level) (s : State) : (drive .scl v s).lastCode = s.lastCode := rfl
@[simp] theorem drive_scl_res (v : Level) (s : State) : (drive .scl v s).res = s.res := rfl
@[simp] theorem drive_scl_pollCnt (v : Level) (s : State) : (drive .scl v s).pollCnt = s.pollCnt := rfl
@[simp] theorem drive_scl_seq (v : Level) (s : State) : (drive .scl v s).seq = s.seq := rfl
@[simp] theorem drive_scl_rst (v : Level) (s : State) : (drive .scl v s).rst = s.rst := rfl
@[simp] theorem drive_scl_words (v : Level) (s : State) : (drive .scl v s).words = s.words := rfl
@[simp] theorem drive_scl_levels (v : Level) (s : State) : (drive .scl v s).levels = s.levels := rfl
@[simp] theorem drive_scl_draws (v : Level) (s : State) : (drive .scl v s).draws = s.draws := rfl
@[simp] theorem drive_scl_trace (v : Level) (s : State) : (drive .scl v s).trace = .drive .scl v :: s.trace := rfl
@[simp] theorem drive_scl_params (v : Level) (s : State) : (drive .scl v s).params = s.params := rfl

/-! `setMode .sda m s` -/

@[simp] theorem setMode_sda_st (m : LineMode) (s : State) : (setMode .sda m s).st = s.st := rfl
@[simp] theorem setMode_sda_busy (m : LineMode) (s : State) : (setMode .sda m s).busy = s.busy := rfl
@[simp] theorem setMode_sda_pinScl (m : LineMode) (s : State) : (setMode .sda m s).pinScl = s.pinScl := rfl
@[simp] theorem setMode_sda_pinSda (m : LineMode) (s : State) : (setMode .sda m s).pinSda = s.pinSda := rfl
@[simp] theorem setMode_sda_sclMode (m : LineMode) (s : State) : (setMode .sda m s).sclMode = s.sclMode := rfl
@[simp] theorem setMode_sda_sclOut (m : LineMode) (s : State) : (setMode .sda m s).sclOut = s.sclOut := rfl
@[simp] theorem setMode_sda_sdaMode (m : LineMode) (s : State) : (setMode .sda m s).sdaMode = m := rfl
@[simp] theorem setMode_sda_sdaOut (m : LineMode) (s : State) : (setMode .sda m s).sdaOut = s.sdaOut := rfl
@[simp] theorem setMode_sda_calEn (m : LineMode) (s : State) : (setMode .sda m s).calEn = s.calEn := rfl
@[simp] theorem setMode_sda_calLo (m : LineMode) (s : State) : (setMode .sda m s).calLo = s.calLo := rfl
@[simp] theorem setMode_sda_calHi (m : LineMode) (s : State) : (setMode .sda m s).calHi = s.calHi := rfl
@[simp] theorem setMode_sda_lastCode (m : LineMode) (s : State) : (setMode .sda m s).lastCode = s.lastCode := rfl
@[simp] theorem setMode_sda_res (m : LineMode) (s : State) : (setMode .sda m s).res = s.res := rfl
@[simp] theorem setMode_sda_pollCnt (m : LineMode) (s : State) : (setMode .sda m s).pollCnt = s.pollCnt := rfl
@[simp] theorem setMode_sda_seq (m : LineMode) (s : State) : (setMode .sda m s).seq = s.seq := rfl
@[simp] theorem setMode_sda_rst (m : LineMode) (s : State) : (setMode .sda m s).rst = s.rst := rfl
@[simp] theorem setMode_sda_words (m : LineMode) (s : State) : (setMode .sda m s).words = s.words := rfl
@[simp] theorem setMode_sda_levels (m : LineMode) (s : State) : (setMode .sda m s).levels = s.levels := rfl
@[simp] theorem setMode_sda_draws (m : LineMode) (s : State) : (setMode .sda m s).draws = s.draws := rfl
@[simp] theorem setMode_sda_trace (m : LineMode) (s : State) : (setMode .sda m s).trace = .mode .sda m :: s.trace := rfl
@[simp] theorem setMode_sda_params (m : LineMode) (s : State) : (setMode .sda m s).params = s.params := rfl

/-! `drive .sda v s` -/

@[simp] theorem drive_sda_st (v : Level) (s : State) : (drive .sda v s).st = s.st := rfl
@[simp] theorem drive_sda_busy (v : Level) (s : State) : (drive .sda v s).busy = s.busy := rfl
@[simp] theorem drive_sda_pinScl (v : Level) (s : State) : (drive .sda v s).pinScl = s.pinScl := rfl
@[simp] theorem drive_sda_pinSda (v : Level) (s : State) : (drive .sda v s).pinSda = s.pinSda := rfl
@[simp] theorem drive_sda_sclMode (v : Level) (s : State) : (drive .sda v s).sclMode = s.sclMode := rfl
@[simp] theorem drive_sda_sclOut (v : Level) (s : State) : (drive .sda v s).sclOut = s.sclOut := rfl
@[simp] theorem drive_sda_sdaMode (v : Level) (s : State) : (drive .sda v s).sdaMode = s.sdaMode := rfl
@[simp] theorem drive_sda_sdaOut (v : Level) (s : State) : (drive .sda v s).sdaOut = v := rfl
@[simp] theorem drive_sda_calEn (v : Level) (s : State) : (drive .sda v s).calEn = s.calEn := rfl
@[simp] theorem drive_sda_calLo (v : Level) (s : State) : (drive .sda v s).calLo = s.calLo := rfl
@[simp] theorem drive_sda_calHi (v : Level) (s : State) : (drive .sda v s).calHi = s.calHi := rfl
@[simp] theorem drive_sda_lastCode (v : Level) (s : State) : (drive .sda v s).lastCode = s.lastCode := rfl
@[simp] theorem drive_sda_res (v : Level) (s : State) : (drive .sda v s).res = s.res := rfl
@[simp] theorem drive_sda_pollCnt (v : Level) (s : State) : (drive .sda v s).pollCnt = s.pollCnt := rfl
@[simp] theorem drive_sda_seq (v : Level) (s : State) : (drive .sda v s).seq = s.seq := rfl
@[simp] theorem drive_sda_rst (v : Level) (s : State) : (drive .sda v s).rst = s.rst := rfl
@[simp] theorem drive_sda_words (v : Level) (s : State) : (drive .sda v s).words = s.words := rfl
@[simp] theorem drive_sda_levels (v : Level) (s : State) : (drive .sda v s).levels = s.levels := rfl
@[simp] theorem drive_sda_draws (v : Level) (s : State) : (drive .sda v s).draws = s.draws := rfl
@[simp] theorem drive_sda_trace (v : Level) (s : State) : (drive .sda v s).trace = .drive .sda v :: s.trace := rfl
@[simp] theorem drive_sda_params (v : Level) (s : State) : (drive .sda v s).params = s.params := rfl

/-! `waitUs n s` -/

@[simp] theorem waitUs_st (n : Nat) (s : State) : (waitUs n s).st = s.st := rfl
@[simp] theorem waitUs_busy (n : Nat) (s : State) : (waitUs n s).busy = s.busy := rfl
@[simp] theorem waitUs_pinScl (n : Nat) (s : State) : (waitUs n s).pinScl = s.pinScl := rfl
@[simp] theorem waitUs_pinSda (n : Nat) (s : State) : (waitUs n s).pinSda = s.pinSda := rfl
@[simp] theorem waitUs_sclMode (n : Nat) (s : State) : (waitUs n s).sclMode = s.sclMode := rfl
@[simp] theorem waitUs_sclOut (n : Nat) (s : State) : (waitUs n s).sclOut = s.sclOut := rfl
@[simp] theorem waitUs_sdaMode (n : Nat) (s : State) : (waitUs n s).sdaMode = s.sdaMode := rfl
@[simp] theorem waitUs_sdaOut (n : Nat) (s : State) : (waitUs n s).sdaOut = s.sdaOut := rfl
@[simp] theorem waitUs_calEn (n : Nat) (s : State) : (waitUs n s).calEn = s.calEn := rfl
@[simp] theorem waitUs_calLo (n : Nat) (s : State) : (waitUs n s).calLo = s.calLo := rfl
@[simp] theorem waitUs_calHi (n : Nat) (s : State) : (waitUs n s).calHi = s.calHi := rfl
@[simp] theorem waitUs_lastCode (n : Nat) (s : State) : (waitUs n s).lastCode = s.lastCode := rfl
@[simp] theorem waitUs_res (n : Nat) (s : State) : (waitUs n s).res = s.res := rfl
@[simp] theorem waitUs_pollCnt (n : Nat) (s : State) : (waitUs n s).pollCnt = s.pollCnt := rfl
@[simp] theorem waitUs_seq (n : Nat) (s : State) : (waitUs n s).seq = s.seq := rfl
@[simp] theorem waitUs_rst (n : Nat) (s : State) : (waitUs n s).rst = s.rst := rfl
@[simp] theorem waitUs_words (n : Nat) (s : State) : (waitUs n s).words = s.words := rfl
@[simp] theorem waitUs_levels (n : Nat) (s : State) : (waitUs n s).levels = s.levels := rfl
@[simp] theorem waitUs_draws (n : Nat) (s : State) : (waitUs n s).draws = s.draws := rfl
@[simp] theorem waitUs_trace (n : Nat) (s : State) : (waitUs n s).trace = .waitUs n :: s.trace := rfl
@[simp] theorem waitUs_params (n : Nat) (s : State) : (waitUs n s).params = s.params := rfl

/-! `waitMs n s` -/

@[simp] theorem waitMs_st (n : Nat) (s : State) : (waitMs n s).st = s.st := rfl
@[simp] theorem waitMs_busy (n : Nat) (s : State) : (waitMs n s).busy = s.busy := rfl
@[simp] theorem waitMs_pinScl (n : Nat) (s : State) : (waitMs n s).pinScl = s.pinScl := rfl
@[simp] theorem waitMs_pinSda (n : Nat) (s : State) : (waitMs n s).pinSda = s.pinSda := rfl
@[simp] theorem waitMs_sclMode (n : Nat) (s : State) : (waitMs n s).sclMode = s.sclMode := rfl
@[simp] theorem waitMs_sclOut (n : Nat) (s : State) : (waitMs n s).sclOut = s.sclOut := rfl
@[simp] theorem waitMs_sdaMode (n : Nat) (s : State) : (waitMs n s).sdaMode = s.sdaMode := rfl
@[simp] theorem waitMs_sdaOut (n : Nat) (s : State) : (waitMs n s).sdaOut = s.sdaOut := rfl
@[simp] theorem waitMs_calEn (n : Nat) (s : State) : (waitMs n s).calEn = s.calEn := rfl
@[simp] theorem waitMs_calLo (n : Nat) (s : State) : (waitMs n s).calLo = s.calLo := rfl
@[simp] theorem waitMs_calHi (n : Nat) (s : State) : (waitMs n s).calHi = s.calHi := rfl
@[simp] theorem waitMs_lastCode (n : Nat) (s : State) : (waitMs n s).lastCode = s.lastCode := rfl
@[simp] theorem waitMs_res (n : Nat) (s : State) : (waitMs n s).res = s.res := rfl
@[simp] theorem waitMs_pollCnt (n : Nat) (s : State) : (waitMs n s).pollCnt = s.pollCnt := rfl
@[simp] theorem waitMs_seq (n : Nat) (s : State) : (waitMs n s).seq = s.seq := rfl
@[simp] theorem waitMs_rst (n : Nat) (s : State) : (waitMs n s).rst = s.rst := rfl
@[simp] theorem waitMs_words (n : Nat) (s : State) : (waitMs n s).words = s.words := rfl
@[simp] theorem waitMs_levels (n : Nat) (s : State) : (waitMs n s).levels = s.levels := rfl
@[simp] theorem waitMs_draws (n : Nat) (s : State) : (waitMs n s).draws = s.draws := rfl
@[simp] theorem waitMs_trace (n : Nat) (s : State) : (waitMs n s).trace = .waitMs n :: s.trace := rfl
@[simp] theorem waitMs_params (n : Nat) (s : State) : (waitMs n s).params = s.params := rfl

/-! `hold h s` -/

@[simp] theorem hold_st (h : HoldTime) (s : State) : (hold h s).st = s.st := rfl
@[simp] theorem hold_busy (h : HoldTime) (s : State) : (hold h s).busy = s.busy := rfl
@[simp] theorem hold_pinScl (h : HoldTime) (s : State) : (hold h s).pinScl = s.pinScl := rfl
@[simp] theorem hold_pinSda (h : HoldTime) (s : State) : (hold h s).pinSda = s.pinSda := rfl
@[simp] theorem hold_sclMode (h : HoldTime) (s : State) : (hold h s).sclMode = s.sclMode := rfl
@[simp] theorem hold_sclOut (h : HoldTime) (s : State) : (hold h s).sclOut = s.sclOut := rfl
@[simp] theorem hold_sdaMode (h : HoldTime) (s : State) : (hold h s).sdaMode = s.sdaMode := rfl
@[simp] theorem hold_sdaOut (h : HoldTime) (s : State) : (hold h s).sdaOut = s.sdaOut := rfl
@[simp] theorem hold_calEn (h : HoldTime) (s : State) : (hold h s).calEn = s.calEn := rfl
@[simp] theorem hold_calLo (h : HoldTime) (s : State) : (hold h s).calLo = s.calLo := rfl
@[simp] theorem hold_calHi (h : HoldTime) (s : State) : (hold h s).calHi = s.calHi := rfl
@[simp] theorem hold_lastCode (h : HoldTime) (s : State) : (hold h s).lastCode = s.lastCode := rfl
@[simp] theorem hold_res (h : HoldTime) (s : State) : (hold h s).res = s.res := rfl
@[simp] theorem hold_pollCnt (h : HoldTime) (s : State) : (hold h s).pollCnt = s.pollCnt := rfl
@[simp] theorem hold_seq (h : HoldTime) (s : State) : (hold h s).seq = s.seq := rfl
@[simp] theorem hold_rst (h : HoldTime) (s : State) : (hold h s).rst = s.rst := rfl
@[simp] theorem hold_words (h : HoldTime) (s : State) : (hold h s).words = s.words := rfl
@[simp] theorem hold_levels (h : HoldTime) (s : State) : (hold h s).levels = s.levels := rfl
@[simp] theorem hold_draws (h : HoldTime) (s : State) : (hold h s).draws = s.draws := rfl
@[simp] theorem hold_trace (h : HoldTime) (s : State) : (hold h s).trace = .waitUs (holdMicros s.params h) :: s.trace := rfl
@[simp] theorem hold_params (h : HoldTime) (s : State) : (hold h s).params = s.params := rfl

/-! `sampleSda s` -/

@[simp] theorem sampleSda_st (s : State) : (sampleSda s).st = s.st := rfl
@[simp] theorem sampleSda_busy (s : State) : (sampleSda s).busy = s.busy := rfl
@[simp] theorem sampleSda_pinScl (s : State) : (sampleSda s).pinScl = s.pinScl := rfl
@[simp] theorem sampleSda_pinSda (s : State) : (sampleSda s).pinSda = s.pinSda := rfl
@[simp] theorem sampleSda_sclMode (s : State) : (sampleSda s).sclMode = s.sclMode := rfl
@[simp] theorem sampleSda_sclOut (s : State) : (sampleSda s).sclOut = s.sclOut := rfl
@[simp] theorem sampleSda_sdaMode (s : State) : (sampleSda s).sdaMode = s.sdaMode := rfl
@[simp] theorem sampleSda_sdaOut (s : State) : (sampleSda s).sdaOut = s.sdaOut := rfl
@[simp] theorem sampleSda_calEn (s : State) : (sampleSda s).calEn = s.calEn := rfl
@[simp] theorem sampleSda_calLo (s : State) : (sampleSda s).calLo = s.calLo := rfl
@[simp] theorem sampleSda_calHi (s : State) : (sampleSda s).calHi = s.calHi := rfl
@[simp] theorem sampleSda_lastCode (s : State) : (sampleSda s).lastCode = s.lastCode := rfl
@[simp] theorem sampleSda_res (s : State) : (sampleSda s).res = s.res := rfl
@[simp] theorem sampleSda_pollCnt (s : State) : (sampleSda s).pollCnt = s.pollCnt := rfl
@[simp] theorem sampleSda_seq (s : State) : (sampleSda s).seq = s.seq := rfl
@[simp] theorem sampleSda_rst (s : State) : (sampleSda s).rst = s.rst := rfl
@[simp] theorem sampleSda_words (s : State) : (sampleSda s).words = s.words := rfl
@[simp] theorem sampleSda_levels (s : State) : (sampleSda s).levels = s.levels.tail := rfl
@[simp] theorem sampleSda_draws (s : State) : (sampleSda s).draws = s.draws + 1 := rfl
@[simp] theorem sampleSda_trace (s : State) : (sampleSda s).trace = .sample .sda (nextLevel s) :: s.trace := rfl
@[simp] theorem sampleSda_params (s : State) : (sampleSda s).params = s.params := rfl

/-! `setRes v s` -/

@[simp] theorem setRes_st (v : BitVec 32) (s : State) : (setRes v s).st = s.st := rfl
@[simp] theorem setRes_busy (v : BitVec 32) (s : State) : (setRes v s).busy = s.busy := rfl
@[simp] theorem setRes_pinScl (v : BitVec 32) (s : State) : (setRes v s).pinScl = s.pinScl := rfl
@[simp] theorem setRes_pinSda (v : BitVec 32) (s : State) : (setRes v s).pinSda = s.pinSda := rfl
@[simp] theorem setRes_sclMode (v : BitVec 32) (s : State) : (setRes v s).sclMode = s.sclMode := rfl
@[simp] theorem setRes_sclOut (v : BitVec 32) (s : State) : (setRes v s).sclOut = s.sclOut := rfl
@[simp] theorem setRes_sdaMode (v : BitVec 32) (s : State) : (setRes v s).sdaMode = s.sdaMode := rfl
@[simp] theorem setRes_sdaOut (v : BitVec 32) (s : State) : (setRes v s).sdaOut = s.sdaOut := rfl
@[simp] theorem setRes_calEn (v : BitVec 32) (s : State) : (setRes v s).calEn = s.calEn := rfl
@[simp] theorem setRes_calLo (v : BitVec 32) (s : State) : (setRes v s).calLo = s.calLo := rfl
@[simp] theorem setRes_calHi (v : BitVec 32) (s : State) : (setRes v s).calHi = s.calHi := rfl
@[simp] theorem setRes_lastCode (v : BitVec 32) (s : State) : (setRes v s).lastCode = s.lastCode := rfl
@[simp] theorem setRes_res (v : BitVec 32) (s : State) : (setRes v s).res = v := rfl
@[simp] theorem setRes_pollCnt (v : BitVec 32) (s : State) : (setRes v s).pollCnt = s.pollCnt := rfl
@[simp] theorem setRes_seq (v : BitVec 32) (s : State) : (setRes v s).seq = s.seq := rfl
@[simp] theorem setRes_rst (v : BitVec 32) (s : State) : (setRes v s).rst = s.rst := rfl
@[simp] theorem setRes_words (v : BitVec 32) (s : State) : (setRes v s).words = s.words := rfl
@[simp] theorem setRes_levels (v : BitVec 32) (s : State) : (setRes v s).levels = s.levels := rfl
@[simp] theorem setRes_draws (v : BitVec 32) (s : State) : (setRes v s).draws = s.draws := rfl
@[simp] theorem setRes_trace (v : BitVec 32) (s : State) : (setRes v s).trace = s.trace := rfl
@[simp] theorem setRes_params (v : BitVec 32) (s : State) : (setRes v s).params = s.params := rfl

/-! `bindPins a b s` -/

@[simp] theorem bindPins_st (a b : BitVec 16) (s : State) : (bindPins a b s).st = s.st := rfl
@[simp] theorem bindPins_busy (a b : BitVec 16) (s : State) : (bindPins a b s).busy = s.busy := rfl
@[simp] theorem bindPins_pinScl (a b : BitVec 16) (s : State) : (bindPins a b s).pinScl = a := rfl
@[simp] theorem bindPins_pinSda (a b : BitVec 16) (s : State) : (bindPins a b s).pinSda = b := rfl
@[simp] theorem bindPins_sclMode (a b : BitVec 16) (s : State) : (bindPins a b s).sclMode = s.sclMode := rfl
@[simp] theorem bindPins_sclOut (a b : BitVec 16) (s : State) : (bindPins a b s).sclOut = s.sclOut := rfl
@[simp] theorem bindPins_sdaMode (a b : BitVec 16) (s : State) : (bindPins a b s).sdaMode = s.sdaMode := rfl
@[simp] theorem bindPins_sdaOut (a b : BitVec 16) (s : State) : (bindPins a b s).sdaOut = s.sdaOut := rfl
@[simp] theorem bindPins_calEn (a b : BitVec 16) (s : State) : (bindPins a b s).calEn = s.calEn := rfl
@[simp] theorem bindPins_calLo (a b : BitVec 16) (s : State) : (bindPins a b s).calLo = s.calLo := rfl
@[simp] theorem bindPins_calHi (a b : BitVec 16) (s : State) : (bindPins a b s).calHi = s.calHi := rfl
@[simp] theorem bindPins_lastCode (a b : BitVec 16) (s : State) : (bindPins a b s).lastCode = s.lastCode := rfl
@[simp] theorem bindPins_res (a b : BitVec 16) (s : State) : (bindPins a b s).res = s.res := rfl
@[simp] theorem bindPins_pollCnt (a b : BitVec 16) (s : State) : (bindPins a b s).pollCnt = s.pollCnt := rfl
@[simp] theorem bindPins_seq (a b : BitVec 16) (s : State) : (bindPins a b s).seq = s.seq := rfl
@[simp] theorem bindPins_rst (a b : BitVec 16) (s : State) : (bindPins a b s).rst = s.rst := rfl
@[simp] theorem bindPins_words (a b : BitVec 16) (s : State) : (bindPins a b s).words = s.words := rfl
@[simp] theorem bindPins_levels (a b : BitVec 16) (s : State) : (bindPins a b s).levels = s.levels := rfl
@[simp] theorem bindPins_draws (a b : BitVec 16) (s : State) : (bindPins a b s).draws = s.draws := rfl
@[simp] theorem bindPins_trace (a b : BitVec 16) (s : State) : (bindPins a b s).trace = s.trace := rfl
@[simp] theorem bindPins_params (a b : BitVec 16) (s : State) : (bindPins a b s).params = s.params := rfl

/-! `present w s` -/

@[simp] theorem present_st (w : CmdWord) (s : State) : (present w s).st = s.st := rfl
@[simp] theorem present_busy (w : CmdWord) (s : State) : (present w s).busy = s.busy := rfl
@[simp] theorem present_pinScl (w : CmdWord) (s : State) : (present w s).pinScl = s.pinScl := rfl
@[simp] theorem present_pinSda (w : CmdWord) (s : State) : (present w s).pinSda = s.pinSda := rfl
@[simp] theorem present_sclMode (w : CmdWord) (s : State) : (present w s).sclMode = s.sclMode := rfl
@[simp] theorem present_sclOut (w : CmdWord) (s : State) : (present w s).sclOut = s.sclOut := rfl
@[simp] theorem present_sdaMode (w : CmdWord) (s : State) : (present w s).sdaMode = s.sdaMode := rfl
@[simp] theorem present_sdaOut (w : CmdWord) (s : State) : (present w s).sdaOut = s.sdaOut := rfl
@[simp] theorem present_calEn (w : CmdWord) (s : State) : (present w s).calEn = s.calEn := rfl
@[simp] theorem present_calLo (w : CmdWord) (s : State) : (present w s).calLo = s.calLo := rfl
@[simp] theorem present_calHi (w : CmdWord) (s : State) : (present w s).calHi = s.calHi := rfl
@[simp] theorem present_lastCode (w : CmdWord) (s : State) : (present w s).lastCode = s.lastCode := rfl
@[simp] theorem present_res (w : CmdWord) (s : State) : (present w s).res = s.res := rfl
@[simp] theorem present_pollCnt (w : CmdWord) (s : State) : (present w s).pollCnt = s.pollCnt := rfl
@[simp] theorem present_seq (w : CmdWord) (s : State) : (present w s).seq = s.seq := rfl
@[simp] theorem present_rst (w : CmdWord) (s : State) : (present w s).rst = s.rst := rfl
@[simp] theorem present_words (w : CmdWord) (s : State) : (present w s).words = w :: s.words := rfl
@[simp] theorem present_levels (w : CmdWord) (s : State) : (present w s).levels = s.levels := rfl
@[simp] theorem present_draws (w : CmdWord) (s : State) : (present w s).draws = s.draws := rfl
@[simp] theorem present_trace (w : CmdWord) (s : State) : (present w s).trace = s.trace := rfl
@[simp] theorem present_params (w : CmdWord) (s : State) : (present w s).params = s.params := rfl

/-! `placeWord w s` -/

@[simp] theorem placeWord_st (w : CmdWord) (s : State) : (placeWord w s).st = s.st := rfl
@[simp] theorem placeWord_busy (w : CmdWord) (s : State) : (placeWord w s).busy = false := rfl
@[simp] theorem placeWord_pinScl (w : CmdWord) (s : State) : (placeWord w s).pinScl = s.pinScl := rfl
@[simp] theorem placeWord_pinSda (w : CmdWord) (s : State) : (placeWord w s).pinSda = s.pinSda := rfl
@[simp] theorem placeWord_sclMode (w : CmdWord) (s : State) : (placeWord w s).sclMode = s.sclMode := rfl
@[simp] theorem placeWord_sclOut (w : CmdWord) (s : State) : (placeWord w s).sclOut = s.sclOut := rfl
@[simp] theorem placeWord_sdaMode (w : CmdWord) (s : State) : (placeWord w s).sdaMode = s.sdaMode := rfl
@[simp] theorem placeWord_sdaOut (w : CmdWord) (s : State) : (placeWord w s).sdaOut = s.sdaOut := rfl
@[simp] theorem placeWord_calEn (w : CmdWord) (s : State) : (placeWord w s).calEn = s.calEn := rfl
@[simp] theorem placeWord_calLo (w : CmdWord) (s : State) : (placeWord w s).calLo = s.calLo := rfl
@[simp] theorem placeWord_calHi (w : CmdWord) (s : State) : (placeWord w s).calHi = s.calHi := rfl
@[simp] theorem placeWord_lastCode (w : CmdWord) (s : State) : (placeWord w s).lastCode = s.lastCode := rfl
@[simp] theorem placeWord_res (w : CmdWord) (s : State) : (placeWord w s).res = s.res := rfl
@[simp] theorem placeWord_pollCnt (w : CmdWord) (s : State) : (placeWord w s).pollCnt = s.pollCnt := rfl
@[simp] theorem placeWord_seq (w : CmdWord) (s : State) : (placeWord w s).seq = .idle := rfl
@[simp] theorem placeWord_rst (w : CmdWord) (s : State) : (placeWord w s).rst = false := rfl
@[simp] theorem placeWord_words (w : CmdWord) (s : State) : (placeWord w s).words = w :: s.words := rfl
@[simp] theorem placeWord_levels (w : CmdWord) (s : State) : (placeWord w s).levels = s.levels := rfl
@[simp] theorem placeWord_draws (w : CmdWord) (s : State) : (placeWord w s).draws = s.draws := rfl
@[simp] theorem placeWord_trace (w : CmdWord) (s : State) : (placeWord w s).trace = s.trace := rfl
@[simp] theorem placeWord_params (w : CmdWord) (s : State) : (placeWord w s).params = s.params := rfl

/-! `holdReset s` -/

@[simp] theorem holdReset_st (s : State) : (holdReset s).st = State.reset.st := rfl
@[simp] theorem holdReset_busy (s : State) : (holdReset s).busy = State.reset.busy := rfl
@[simp] theorem holdReset_pinScl (s : State) : (holdReset s).pinScl = State.reset.pinScl := rfl
@[simp] theorem holdReset_pinSda (s : State) : (holdReset s).pinSda = State.reset.pinSda := rfl
@[simp] theorem holdReset_sclMode (s : State) : (holdReset s).sclMode = State.reset.sclMode := rfl
@[simp] theorem holdReset_sclOut (s : State) : (holdReset s).sclOut = State.reset.sclOut := rfl
@[simp] theorem holdReset_sdaMode (s : State) : (holdReset s).sdaMode = State.reset.sdaMode := rfl
@[simp] theorem holdReset_sdaOut (s : State) : (holdReset s).sdaOut = State.reset.sdaOut := rfl
@[simp] theorem holdReset_calEn (s : State) : (holdReset s).calEn = State.reset.calEn := rfl
@[simp] theorem holdReset_calLo (s : State) : (holdReset s).calLo = State.reset.calLo := rfl
@[simp] theorem holdReset_calHi (s : State) : (holdReset s).calHi = State.reset.calHi := rfl
@[simp] theorem holdReset_lastCode (s : State) : (holdReset s).lastCode = State.reset.lastCode := rfl
@[simp] theorem holdReset_res (s : State) : (holdReset s).res = State.reset.res := rfl
@[simp] theorem holdReset_pollCnt (s : State) : (holdReset s).pollCnt = State.reset.pollCnt := rfl
@[simp] theorem holdReset_seq (s : State) : (holdReset s).seq = State.reset.seq := rfl
@[simp] theorem holdReset_rst (s : State) : (holdReset s).rst = s.rst := rfl
@[simp] theorem holdReset_words (s : State) : (holdReset s).words = s.words := rfl
@[simp] theorem holdReset_levels (s : State) : (holdReset s).levels = s.levels := rfl
@[simp] theorem holdReset_draws (s : State) : (holdReset s).draws = s.draws := rfl
@[simp] theorem holdReset_trace (s : State) : (holdReset s).trace = s.trace := rfl
@[simp] theorem holdReset_params (s : State) : (holdReset s).params = s.params := rfl

end Sys2Proof.Machine
end

