-- ==== Sys2Proof/Laws/Ops.lean ====
section
/-! SUPPORT. What each shared operation can do, said once: it emits a list of events of a known shape, and everything it
changes follows from that list (`Runs`). Later proofs cite these and do not unfold the operations. -/

namespace Sys2Proof.Machine

/-! ### Running a list of events -/

/-- `t` is `s` after the events `evs`: the registers that no event writes are as before, the lines are where the events
put them, and the samples took the environment's next levels. -/
structure Runs (s t : State) (evs : List Event) : Prop where
  st : t.st = s.st
  busy : t.busy = s.busy
  pinScl : t.pinScl = s.pinScl
  pinSda : t.pinSda = s.pinSda
  calEn : t.calEn = s.calEn
  calLo : t.calLo = s.calLo
  calHi : t.calHi = s.calHi
  lastCode : t.lastCode = s.lastCode
  res : t.res = s.res
  seq : t.seq = s.seq
  rst : t.rst = s.rst
  words : t.words = s.words
  params : t.params = s.params
  pins : pinsOf t = pinsAfterAll (pinsOf s) evs
  emits : emitted t = emitted s ++ evs
  levels : t.levels = s.levels.drop (sampleCount evs)
  draws : t.draws = s.draws + sampleCount evs
  sampled : evs.filterMap levelOf = (List.range (sampleCount evs)).map (envLevel s)

@[simp] theorem pinsAfterAll_nil (p : Pins) : pinsAfterAll p [] = p := rfl

@[simp] theorem pinsAfterAll_cons (p : Pins) (e : Event) (evs : List Event) :
    pinsAfterAll p (e :: evs) = pinsAfterAll (pinsAfter p e) evs := rfl

@[simp] theorem pinsAfterAll_append (p : Pins) (xs ys : List Event) :
    pinsAfterAll p (xs ++ ys) = pinsAfterAll (pinsAfterAll p xs) ys := by
  simp [pinsAfterAll, List.foldl_append]

@[simp] theorem sampleCount_append (xs ys : List Event) :
    sampleCount (xs ++ ys) = sampleCount xs + sampleCount ys := by
  simp [sampleCount]

theorem envLevel_drop (s t : State) (n j : Nat) (hl : t.levels = s.levels.drop n) (hd : t.draws = s.draws + n) :
    envLevel t j = envLevel s (n + j) := by
  simp [envLevel, hl, hd, Nat.add_assoc]

theorem envLevel_zero (s : State) : envLevel s 0 = nextLevel s := by
  cases h : s.levels <;> simp [envLevel, nextLevel, h]

/-- A register that no event writes may differ between the two ends, so no events at all leave everything as it is. -/
theorem Runs.refl (s : State) : Runs s s [] := by
  constructor <;> simp [sampleCount]

theorem Runs.trans {s t u : State} {xs ys : List Event} (h : Runs s t xs) (k : Runs t u ys) : Runs s u (xs ++ ys) where
  st := k.st.trans h.st
  busy := k.busy.trans h.busy
  pinScl := k.pinScl.trans h.pinScl
  pinSda := k.pinSda.trans h.pinSda
  calEn := k.calEn.trans h.calEn
  calLo := k.calLo.trans h.calLo
  calHi := k.calHi.trans h.calHi
  lastCode := k.lastCode.trans h.lastCode
  res := k.res.trans h.res
  seq := k.seq.trans h.seq
  rst := k.rst.trans h.rst
  words := k.words.trans h.words
  params := k.params.trans h.params
  pins := by rw [k.pins, h.pins, pinsAfterAll_append]
  emits := by rw [k.emits, h.emits, List.append_assoc]
  levels := by rw [k.levels, h.levels, List.drop_drop, sampleCount_append]
  draws := by rw [k.draws, h.draws, sampleCount_append, Nat.add_assoc]
  sampled := by
    rw [List.filterMap_append, h.sampled, k.sampled, sampleCount_append, List.range_add, List.map_append, List.map_map]
    congr 1
    exact List.map_congr_left fun j _ => envLevel_drop s t _ j h.levels h.draws

/-! ### The single events -/

theorem runs_setMode (l : Line) (m : LineMode) (s : State) : Runs s (setMode l m s) [.mode l m] := by
  cases l <;> constructor <;> simp [pinsOf, pinsAfter, emitted, sampleCount, isSample, levelOf]

theorem runs_drive (l : Line) (v : Level) (s : State) : Runs s (drive l v s) [.drive l v] := by
  cases l <;> constructor <;> simp [pinsOf, pinsAfter, emitted, sampleCount, isSample, levelOf]

theorem runs_waitMs (n : Nat) (s : State) : Runs s (waitMs n s) [.waitMs n] := by
  constructor <;> simp [pinsOf, pinsAfter, emitted, sampleCount, isSample, levelOf]

theorem runs_hold (h : HoldTime) (s : State) : Runs s (hold h s) [traceHold s.params h] := by
  constructor <;> simp [pinsOf, pinsAfter, emitted, sampleCount, isSample, levelOf, traceHold]

theorem runs_sampleSda (s : State) : Runs s (sampleSda s) [.sample .sda (nextLevel s)] := by
  constructor <;> simp [pinsOf, pinsAfter, emitted, sampleCount, isSample, levelOf, envLevel_zero]

/-- The poll counter is written by no event. -/
theorem Runs.setPollCnt {s t : State} {evs : List Event} (h : Runs s t evs) (n : Nat) :
    Runs s { t with pollCnt := n } evs :=
  { st := h.st, busy := h.busy, pinScl := h.pinScl, pinSda := h.pinSda, calEn := h.calEn, calLo := h.calLo,
    calHi := h.calHi, lastCode := h.lastCode, res := h.res, seq := h.seq, rst := h.rst, words := h.words,
    params := h.params, pins := h.pins, emits := h.emits, levels := h.levels, draws := h.draws, sampled := h.sampled }

/-! ### The primitives -/

theorem runs_startCond (s : State) : Runs s (startCond s) (traceS s.params) := by
  have h := ((((((runs_drive .sda true s).trans (runs_drive .scl true _)).trans
    (runs_hold s.params.holds.s1 _)).trans (runs_drive .sda false _)).trans
    (runs_hold s.params.holds.s2 _)).trans (runs_drive .scl false _)).trans (runs_hold s.params.holds.s3 _)
  simpa [startCond, traceS] using h

theorem runs_stopCond (s : State) : Runs s (stopCond s) (traceP s.params) := by
  have h := (((((runs_drive .sda false s).trans (runs_hold s.params.holds.p1 _)).trans
    (runs_drive .scl true _)).trans (runs_hold s.params.holds.p2 _)).trans (runs_drive .sda true _)).trans
    (runs_hold s.params.holds.p3 _)
  simpa [stopCond, traceP] using h

theorem runs_bitCycle (v : Level) (s : State) : Runs s (bitCycle v s) (traceBit s.params v) := by
  have h := (((((runs_drive .sda v s).trans (runs_hold s.params.holds.b1 _)).trans
    (runs_drive .scl true _)).trans (runs_hold s.params.holds.b2 _)).trans (runs_drive .scl false _)).trans
    (runs_hold s.params.holds.b3 _)
  simpa [bitCycle, traceBit] using h

theorem runs_sendBits (bits : List Level) (s : State) :
    Runs s (sendBits bits s) (bits.flatMap (traceBit s.params)) := by
  induction bits generalizing s with
  | nil => exact Runs.refl s
  | cons v rest ih =>
    have h := (runs_bitCycle v s).trans (ih (bitCycle v s))
    rwa [(runs_bitCycle v s).params] at h

theorem unitBits_eq (data : Byte) (n : Nat) : unitBits data n = (List.range n).reverse.map data.getLsbD := by
  induction n with
  | zero => rfl
  | succ m ih => simp [unitBits, ih, List.range_succ]

theorem runs_unitBits (data : Byte) (n : Nat) (s : State) :
    Runs s (sendBits (unitBits data n) s) (traceBits s.params data n) := by
  have h := runs_sendBits (unitBits data n) s
  have e : (unitBits data n).flatMap (traceBit s.params) = traceBits s.params data n := by
    rw [unitBits_eq, List.flatMap_def, List.map_map]
    rfl
  rwa [e] at h

theorem runs_noAckTail (s : State) : Runs s (noAckTail s) (traceT s.params) := by
  simpa [noAckTail, traceT] using (runs_drive .sda s.params.noackSdaLevel s).trans (runs_drive .scl true _)

/-! ### The acknowledgment read -/

theorem traceMisses_succ (p : Params) (exp : Level) (k : Nat) :
    traceMisses p exp (k + 1) = [.sample .sda (!exp), traceHold p p.holds.poll] ++ traceMisses p exp k := by
  simp [traceMisses, List.replicate_succ]

/-- The poll loop from a counter `fuel` below the bound: it ends at a match after fewer than `fuel` misses, or after
`fuel` misses. -/
theorem pollLoop_spec (exp : Level) (fuel : Nat) (s : State) (h : s.pollCnt + fuel = s.params.ackPollMax) :
    (∃ k, k < fuel ∧ (pollLoop exp fuel s).pollCnt = s.pollCnt + k ∧
      Runs s (pollLoop exp fuel s) (traceMisses s.params exp k ++ [.sample .sda exp])) ∨
    ((pollLoop exp fuel s).pollCnt = s.pollCnt + fuel ∧
      Runs s (pollLoop exp fuel s) (traceMisses s.params exp fuel)) := by
  induction fuel generalizing s with
  | zero => exact .inr ⟨rfl, Runs.refl s⟩
  | succ n ih =>
    have hlt : s.pollCnt < s.params.ackPollMax := by omega
    by_cases hm : nextLevel s = exp
    · refine .inl ⟨0, Nat.succ_pos n, ?_, ?_⟩ <;> simp only [pollLoop, if_pos hlt, if_pos hm]
      · simp
      · simpa [traceMisses, hm] using runs_sampleSda s
    · have hv : nextLevel s = !exp := by cases hx : nextLevel s <;> cases exp <;> simp_all
      have hu : pollLoop exp (n + 1) s =
          pollLoop exp n
            { hold s.params.holds.poll (sampleSda s) with
              pollCnt := (hold s.params.holds.poll (sampleSda s)).pollCnt + 1 } := by
        simp only [pollLoop, if_pos hlt, if_neg hm]
      have h1 := ((runs_sampleSda s).trans (runs_hold s.params.holds.poll (sampleSda s))).setPollCnt
        ((hold s.params.holds.poll (sampleSda s)).pollCnt + 1)
      rw [hv, sampleSda_params] at h1
      rw [hu]
      generalize ht : ({ hold s.params.holds.poll (sampleSda s) with
              pollCnt := (hold s.params.holds.poll (sampleSda s)).pollCnt + 1 } : State) = t at h1 ⊢
      have hc : t.pollCnt = s.pollCnt + 1 := by rw [← ht]; simp
      have hp : t.params = s.params := h1.params
      rcases ih t (by rw [hc, hp]; omega) with ⟨k, hk, hcnt, hr⟩ | ⟨hcnt, hr⟩
      · refine .inl ⟨k + 1, by omega, by omega, ?_⟩
        rw [hp] at hr
        simpa [traceMisses_succ] using h1.trans hr
      · refine .inr ⟨by omega, ?_⟩
        rw [hp] at hr
        simpa [traceMisses_succ] using h1.trans hr

theorem pollPhase_spec (exp : Level) (s : State) :
    ∃ poll, PollTrace s.params exp poll ∧ Runs s (pollPhase exp s) poll := by
  have h0 : Runs s { s with pollCnt := 0 } [] := (Runs.refl s).setPollCnt 0
  rcases pollLoop_spec exp s.params.ackPollMax { s with pollCnt := 0 } (Nat.zero_add _) with ⟨k, hk, -, hr⟩ | ⟨-, hr⟩
  · exact ⟨_, .inl ⟨k, hk, rfl⟩, h0.trans hr⟩
  · exact ⟨_, .inr rfl, h0.trans hr⟩

theorem runs_releasePhase (s : State) :
    Runs s (releasePhase s)
      [.mode .sda .inPu, traceHold s.params s.params.holds.a1, .drive .scl true,
        traceHold s.params s.params.holds.a2] := by
  simpa [releasePhase] using (((runs_setMode .sda .inPu s).trans (runs_hold s.params.holds.a1 _)).trans
    (runs_drive .scl true _)).trans (runs_hold s.params.holds.a2 _)

theorem runs_restorePhase (s : State) :
    Runs s (restorePhase s)
      [traceHold s.params s.params.holds.a3, .drive .scl false, traceHold s.params s.params.holds.a4,
        .mode .sda .out] := by
  simpa [restorePhase] using (((runs_hold s.params.holds.a3 s).trans (runs_drive .scl false _)).trans
    (runs_hold s.params.holds.a4 _)).trans (runs_setMode .sda .out _)

/-- The acknowledgment read emits an acknowledgment trace around the level it returns. -/
theorem ackRead_spec (exp : Level) (s : State) :
    ∃ evs, AckTrace s.params exp evs (ackRead exp s).1 ∧ Runs s (ackRead exp s).2 evs := by
  have h1 := runs_releasePhase s
  obtain ⟨poll, hp, h2⟩ := pollPhase_spec exp (releasePhase s)
  have h3 := runs_sampleSda (pollPhase exp (releasePhase s))
  have h4 := runs_restorePhase (sampleSda (pollPhase exp (releasePhase s)))
  rw [h1.params] at hp
  have hq : (sampleSda (pollPhase exp (releasePhase s))).params = s.params :=
    h3.params.trans (h2.params.trans h1.params)
  rw [hq] at h4
  refine ⟨_, ⟨poll, hp, rfl⟩, ?_⟩
  simpa [traceAck, ackRead] using ((h1.trans h2).trans h3).trans h4

theorem unitAck_spec (data : Byte) (n : Nat) (exp : Level) (s : State) :
    ∃ evs, UnitTrace s.params data n exp evs (unitAck data n exp s).1 ∧ Runs s (unitAck data n exp s).2 evs := by
  have h1 := runs_unitBits data n s
  obtain ⟨evs, ha, h2⟩ := ackRead_spec exp (sendBits (unitBits data n) s)
  rw [h1.params] at ha
  exact ⟨_, ⟨evs, ha, rfl⟩, h1.trans h2⟩

theorem runs_unitNoack (data : Byte) (n : Nat) (s : State) :
    Runs s (unitNoack data n s) (traceBits s.params data n ++ traceT s.params) := by
  have h1 := runs_unitBits data n s
  have h2 := runs_noAckTail (sendBits (unitBits data n) s)
  rw [h1.params] at h2
  exact h1.trans h2

/-! ### Frames of bytes -/

theorem sendBytesExp_spec (vs : List Byte) (exp : Level) (s : State) :
    ∃ evs, BytesTrace s.params exp vs evs ∧ Runs s (sendBytesExp vs exp s) evs := by
  induction vs generalizing s with
  | nil => exact ⟨[], rfl, Runs.refl s⟩
  | cons v rest ih =>
    obtain ⟨here, hu, h1⟩ := unitAck_spec v 8 exp s
    obtain ⟨after, hb, h2⟩ := ih (sendByteExp v exp s)
    have hp : (sendByteExp v exp s).params = s.params := h1.params
    rw [hp] at hb
    exact ⟨here ++ after, ⟨_, here, after, hu, hb, rfl⟩, h1.trans h2⟩

theorem bytesFrame_spec (vs : List Byte) (exp : Level) (s : State) :
    ∃ evs, FrameTrace s.params exp vs evs ∧ Runs s (bytesFrame vs exp s) evs := by
  have h1 := runs_startCond s
  obtain ⟨bytes, hb, h2⟩ := sendBytesExp_spec vs exp (startCond s)
  have h3 := runs_stopCond (sendBytesExp vs exp (startCond s))
  rw [h2.params, h1.params] at h3
  rw [h1.params] at hb
  exact ⟨_, ⟨bytes, hb, rfl⟩, (h1.trans h2).trans h3⟩

/-- The write frame is the frame of its four bytes. -/
theorem writeFrame_eq (c : BitVec 12) (s : State) :
    writeFrame c s =
      bytesFrame [addrByte s.params, s.params.regSelect, codeLowByte c, codeHighByte c] s.params.ackLevel s := by
  have hp : ∀ v exp t, (sendByteExp v exp t).params = t.params := fun v exp t => by
    obtain ⟨_, _, h⟩ := unitAck_spec v 8 exp t
    exact h.params
  simp [writeFrame, bytesFrame, sendBytesExp, sendByte, hp, (runs_startCond s).params]

theorem runs_headerFrame (s : State) : Runs s (headerFrame s) (traceHeader s.params) := by
  have h1 := runs_startCond s
  have h2 := runs_unitNoack Config.hdr 3 (startCond s)
  have h3 := runs_stopCond (unitNoack Config.hdr 3 (startCond s))
  rw [h2.params, h1.params] at h3
  rw [h1.params] at h2
  simpa [traceHeader, headerFrame, Config.hdr] using (h1.trans h2).trans h3

end Sys2Proof.Machine
end

