-- ==== Sys2Proof/Laws/PerInstr.lean ====
section
/-! SUPPORT. Facts about every instruction as syntax, one lemma for each constructor. `EncodesItsRow`: the word of a
well-formed command is accepted by the row of the opcode table that carries its mnemonic (30_encoding.md R46 to R48). -/

namespace Sys2Proof.Laws

/-- The encoding of the command lies in the row of its mnemonic. -/
def EncodesItsRow.Statement (i : Instr) : Prop :=
  i.WellFormed → ∃ r ∈ opcodeRows, r.mnemonic = i.mnemonic ∧ r.accepts (encode i) = true

theorem append_and_append {m n : Nat} (x y : BitVec m) (a b : BitVec n) :
    (x ++ a) &&& (y ++ b) = (x &&& y) ++ (a &&& b) := by
  ext i hi
  simp only [BitVec.getElem_and, BitVec.getElem_append]
  split <;> rfl

theorem wordOfFields_and (op opm : Byte) (a am b bm : BitVec 16) :
    wordOfFields op a b &&& wordOfFields opm am bm = wordOfFields (op &&& opm) (a &&& am) (b &&& bm) :=
  (append_and_append (op ++ a) (opm ++ am) b bm).trans (congrArg (· ++ (b &&& bm)) (append_and_append op opm a am))

theorem wordOfCur_and (op opm : Byte) (cur m : BitVec 32) :
    wordOfCur op cur &&& wordOfCur opm m = wordOfCur (op &&& opm) (cur &&& m) :=
  append_and_append op opm cur m

/-- A row accepts a word of three fields when each field under its mask is the field of the pattern. -/
theorem accepts_fields {name : String} {p m : CmdWord} {op a b : _} (opm : Byte) (am bm : BitVec 16)
    (hm : m = wordOfFields opm am bm) (hp : p = wordOfFields (op &&& opm) (a &&& am) (b &&& bm)) :
    (Row.mk name p m).accepts (wordOfFields op a b) = true := by
  simp [Row.accepts, hm, hp, wordOfFields_and]

/-- A row whose mask covers the opcode alone accepts every word of that opcode. -/
theorem accepts_cur {name : String} {p m : CmdWord} {op : Byte} (cur : BitVec 32)
    (hm : m = wordOfCur 0xFF 0) (hp : p = wordOfCur op 0) : (Row.mk name p m).accepts (wordOfCur op cur) = true := by
  have h : op &&& 0xFF#8 = op := BitVec.and_allOnes
  simp [Row.accepts, hm, hp, wordOfCur_and, h]

/-- The row that accepts the word. -/
theorem row_of {i : Instr} (r : Row) (hr : r ∈ opcodeRows) (hn : r.mnemonic = i.mnemonic)
    (ha : r.accepts (encode i) = true) : EncodesItsRow.Statement i :=
  fun _ => ⟨r, hr, hn, ha⟩

/-- The data field lies outside its reserved bits (format X, `b[15:8]`). -/
theorem data_and_mask (data : Byte) : (0#8 ++ data : BitVec 16) &&& 0xFF00 = 0 := by revert data; decide

theorem ackUnit_and_mask (width : Nat) (exp : Level) : aOfUnit width true exp &&& 0xFDF8 = 0x0100 := by
  unfold aOfUnit
  generalize BitVec.ofNat 3 (width - 1) = k
  revert k exp
  decide

theorem noackUnit_and_mask (width : Nat) : aOfUnit width false false &&& 0xFFF8 = 0 := by
  unfold aOfUnit
  generalize BitVec.ofNat 3 (width - 1) = k
  revert k
  decide

theorem aOfExp_and_mask (exp : Level) : aOfExp exp &&& 0xFDFF = 0 := by revert exp; decide

theorem EncodesItsRow.init (a b : BitVec 16) : EncodesItsRow.Statement (.init a b) :=
  row_of ⟨"INIT", 0x0100000000, 0xFF00000000⟩ (by decide) rfl (accepts_fields 0xFF 0 0 (by decide) (by simp [wordOfFields]))

theorem EncodesItsRow.setcal (lo hi : BitVec 16) : EncodesItsRow.Statement (.setcal lo hi) :=
  row_of ⟨"SETCAL", 0x0200000000, 0xFF00000000⟩ (by decide) rfl (accepts_fields 0xFF 0 0 (by decide) (by simp [wordOfFields]))

theorem EncodesItsRow.wrcode (code : BitVec 16) : EncodesItsRow.Statement (.wrcode code) :=
  row_of ⟨"WRCODE", 0x0300000000, 0xFFFFFF0000⟩ (by decide) rfl (accepts_fields 0xFF 0xFFFF 0 (by decide) (by simp [wordOfFields]))

theorem EncodesItsRow.wrcur (cur : BitVec 32) : EncodesItsRow.Statement (.wrcur cur) :=
  row_of ⟨"WRCUR", 0x0400000000, 0xFF00000000⟩ (by decide) rfl (accepts_cur cur (by decide) (by decide))

theorem EncodesItsRow.persist : EncodesItsRow.Statement .persist :=
  row_of ⟨"PERSIST", 0x0500000000, 0xFFFFFFFFFF⟩ (by decide) rfl (by decide)

theorem EncodesItsRow.cvtc2i (code : BitVec 16) : EncodesItsRow.Statement (.cvtc2i code) :=
  row_of ⟨"CVTC2I", 0x0800000000, 0xFFFFFF0000⟩ (by decide) rfl (accepts_fields 0xFF 0xFFFF 0 (by decide) (by simp [wordOfFields]))

theorem EncodesItsRow.cvti2c (cur : BitVec 32) : EncodesItsRow.Statement (.cvti2c cur) :=
  row_of ⟨"CVTI2C", 0x0900000000, 0xFF00000000⟩ (by decide) rfl (accepts_cur cur (by decide) (by decide))

theorem EncodesItsRow.start : EncodesItsRow.Statement .start :=
  row_of ⟨"START", 0x1000000000, 0xFFFFFFFFFF⟩ (by decide) rfl (by decide)

theorem EncodesItsRow.stop : EncodesItsRow.Statement .stop :=
  row_of ⟨"STOP", 0x1100000000, 0xFFFFFFFFFF⟩ (by decide) rfl (by decide)

theorem EncodesItsRow.xferAck (data : Byte) (width : Nat) (exp : Level) :
    EncodesItsRow.Statement (.xferAck data width exp) :=
  row_of ⟨"XFER.ACK", 0x1201000000, 0xFFFDF8FF00⟩ (by decide) rfl
    (accepts_fields 0xFF 0xFDF8 0xFF00 (by decide) (by rw [ackUnit_and_mask, data_and_mask]; decide))

theorem EncodesItsRow.xferNoack (data : Byte) (width : Nat) : EncodesItsRow.Statement (.xferNoack data width) :=
  row_of ⟨"XFER.NOACK", 0x1200000000, 0xFFFFF8FF00⟩ (by decide) rfl
    (accepts_fields 0xFF 0xFFF8 0xFF00 (by decide) (by rw [noackUnit_and_mask, data_and_mask]; decide))

theorem EncodesItsRow.ackrd (exp : Level) : EncodesItsRow.Statement (.ackrd exp) :=
  row_of ⟨"ACKRD", 0x1300000000, 0xFFFDFFFFFF⟩ (by decide) rfl
    (accepts_fields 0xFF 0xFDFF 0xFFFF (by decide) (by rw [aOfExp_and_mask]; decide))

end Sys2Proof.Laws
end

