-- ==== Sys2Proof/Tests/Slice0.lean ====
section
/-! SUPPORT. The model's own tests. Expected values are those of 95_test_vectors.md (the vector is named beside each
test), which the spec derives from its rules by a calculator of its own; every test takes one step. Then, for every
statement that has hypotheses, a witness that meets them. -/

namespace Sys2Proof.Tests

open Sys2Proof.Machine

/-! ### Ill-formed commands are refused, well-formed ones at the same bound are not -/

theorem test_width_zero_is_refused : (Instr.xferAck 0xB0 0 false).wellFormed = false := by decide
theorem test_width_nine_is_refused : (Instr.xferAck 0xB0 9 false).wellFormed = false := by decide
theorem test_noack_width_zero_is_refused : (Instr.xferNoack 0x02 0).wellFormed = false := by decide
theorem test_noack_width_nine_is_refused : (Instr.xferNoack 0x02 9).wellFormed = false := by decide
theorem test_widths_one_and_eight_are_accepted :
    (Instr.xferAck 0xB0 1 false).wellFormed = true ∧ (Instr.xferNoack 0x02 8).wellFormed = true := by decide

/-! ### Words written out field by field (V1) -/

theorem test_decode_init : decodeWord (0x01#8 ++ 0xFFFF#16 ++ 0x0004#16) = .ok (.init (-1) 4) := rfl
theorem test_decode_setcal : decodeWord (0x02#8 ++ 0x028F#16 ++ 0x0CCD#16) = .ok (.setcal 655 3277) := rfl
theorem test_decode_wrcode : decodeWord (0x03#8 ++ 0x0000#16 ++ 0x0FFF#16) = .ok (.wrcode 4095) := rfl
theorem test_decode_wrcur : decodeWord (0x04#8 ++ 0xFFFFEC78#32) = .ok (.wrcur (-5000)) := rfl
theorem test_decode_persist : decodeWord (0x05#8 ++ 0#32) = .ok .persist := rfl
theorem test_decode_cvtc2i : decodeWord (0x08#8 ++ 0x0000#16 ++ 0x07AE#16) = .ok (.cvtc2i 1966) := rfl
theorem test_decode_cvti2c : decodeWord (0x09#8 ++ 0x00004E21#32) = .ok (.cvti2c 20001) := rfl
theorem test_decode_start : decodeWord (0x10#8 ++ 0#32) = .ok .start := rfl
theorem test_decode_stop : decodeWord (0x11#8 ++ 0#32) = .ok .stop := rfl
/-- `op` 0x12; `a` = six zeros, `exp` 1, `ack` 1, five zeros, `nm1` 000; `b` = eight zeros, `data` 0x01. -/
theorem test_decode_xfer_ack :
    decodeWord (0x12#8 ++ (0#6 ++ 1#1 ++ 1#1 ++ 0#5 ++ 0#3) ++ (0#8 ++ 0x01#8)) = .ok (.xferAck 0x01 1 true) := rfl
/-- `op` 0x12; `a` = six zeros, `exp` 0, `ack` 0, five zeros, `nm1` 010; `b` = eight zeros, `data` 0x02. -/
theorem test_decode_xfer_noack :
    decodeWord (0x12#8 ++ (0#6 ++ 0#1 ++ 0#1 ++ 0#5 ++ 2#3) ++ (0#8 ++ 0x02#8)) = .ok (.xferNoack 0x02 3) := rfl
/-- `op` 0x13; `a` = six zeros, `exp` 1, nine zeros; `b` zero. -/
theorem test_decode_ackrd : decodeWord (0x13#8 ++ (0#6 ++ 1#1 ++ 0#9) ++ 0#16) = .ok (.ackrd true) := rfl

/-- V2: the illegal words, each for its reason. -/
theorem test_illegal_words :
    [0x0000000000, 0x0600000000, 0x0700000000, 0x1400000000, 0xFF00000000].map decodeWord =
      [.error (.unassignedOp 0x00), .error (.unassignedOp 0x06), .error (.unassignedOp 0x07),
       .error (.unassignedOp 0x14), .error (.unassignedOp 0xFF)] ∧
    [0x0500000001, 0x1100010000, 0x0300010064, 0x1201080001, 0x1204000001, 0x1201070100, 0x1202020002,
     0x1301000000].map decodeWord =
      [.error (.reservedBits 0x05), .error (.reservedBits 0x11), .error (.reservedBits 0x03),
       .error (.reservedBits 0x12), .error (.reservedBits 0x12), .error (.reservedBits 0x12),
       .error (.reservedBits 0x12), .error (.reservedBits 0x13)] := ⟨rfl, rfl⟩

/-- 20_memory.md R36: the opcode byte comes first; what follows the fifth byte is left over. -/
theorem test_decode_bytes :
    decodeBytes [0x12, 0x01, 0x07, 0x00, 0xB0, 0x77] = .ok (.xferAck 0xB0 8 false, [0x77]) ∧
    decodeBytes [0x12, 0x01, 0x07, 0x00] = .error .truncated := ⟨rfl, rfl⟩

/-- A word of V1 and a word of V2, numbered as the opcode table numbers them. -/
theorem test_decode_table_word :
    decodeTableWord 40 0x1203000001 = some (.xferAck 0x01 1 true) ∧ decodeTableWord 40 0x1202020002 = none :=
  ⟨rfl, rfl⟩

/-- The text of a line (V1) and the pseudo-instructions (30_encoding.md R53). -/
theorem test_assembler_text :
    renderLine (disassemble (.xferAck 0xB0 8 false)) = "XFER 176, 8, ACK, 0" ∧
    pseudoWrma 12000 = .wrcur 12000 ∧ encode (pseudoSendByte defaultParams 0x02) = 0x1201070002 := by decide

/-! ### States and traces the tests are about -/

/-- The state after a successful INIT 5, 4 (V31), the environment aside. -/
def readyState : State :=
  { State.reset with st := .ready, pinScl := 5, pinSda := 4, sclMode := .out, sdaMode := .out }

/-- The next state, if there is one. -/
def nextOf (o : Host.Outcome State Fault Refusal) : Option State :=
  match o with
  | .next t => some t
  | .fault _ => none
  | .refused _ => none

/-- The state after a command, with the environment's answers. -/
def after (i : Instr) (levels : List Level) (s : State) : Option State := nextOf (exec i { s with levels := levels })

/-- `S` of 95_test_vectors.md, at the default parameters; likewise the rest. -/
def vS : List Event :=
  [.drive .sda true, .drive .scl true, .waitUs 2, .drive .sda false, .waitUs 3, .drive .scl false, .waitUs 5]
def vP : List Event :=
  [.drive .sda false, .waitUs 2, .drive .scl true, .waitUs 5, .drive .sda true, .waitUs 5]
def vBit (v : Level) : List Event :=
  [.drive .sda v, .waitUs 2, .drive .scl true, .waitUs 5, .drive .scl false, .waitUs 3]
def vRelease : List Event := [.mode .sda .inPu, .waitUs 2, .drive .scl true, .waitUs 3]
def vFinal (r : Level) : List Event := [.sample .sda r, .waitUs 2, .drive .scl false, .waitUs 3, .mode .sda .out]
def vA (poll : List Event) (r : Level) : List Event := vRelease ++ poll ++ vFinal r
def vA0 : List Event := vA [.sample .sda false] false
def vBits (bits : List Nat) : List Event := bits.flatMap fun n => vBit (n = 1)
def vTail : List Event := [.drive .sda true, .drive .scl true]
def vHeader : List Event := vS ++ vBits [0, 1, 0] ++ vTail ++ vP
def vCommit : List Event := [.waitMs 10]
def vByte (bits : List Nat) : List Event := vBits bits ++ vA0

/-! ### One step of each command -/

set_option maxRecDepth 100000

/-- V10. -/
theorem test_start : (after .start [] readyState).map (fun t => (emitted t, t.res)) = some (vS, 0) := by decide

/-- V11. -/
theorem test_stop : (after .stop [] { readyState with sclOut := false, sdaOut := false }).map
    (fun t => (emitted t, t.sclOut, t.sdaOut, t.res)) = some (vP, true, true, 0) := by decide

/-- V12. -/
theorem test_xfer_ack : (after (.xferAck 0xB0 8 false) [false, false] readyState).map
    (fun t => (emitted t, t.res, t.sdaOut, t.sdaMode)) =
      some (vByte [1, 0, 1, 1, 0, 0, 0, 0], 0, false, .out) := by decide

/-- V15: the expected level is 1 and never comes within the bound (here a bound of 3). -/
theorem test_xfer_ack_expects_one :
    (after (.xferAck 0xFF 1 true) [false, false, false, true]
      { readyState with params := { defaultParams with ackPollMax := 3 } }).map (fun t => (emitted t, t.res)) =
      some (vBit true ++ vA (List.replicate 3 [.sample .sda false, .waitUs 1]).flatten true, 1) := by decide

/-- V14: the low three bits only, and the tail with the level 1. -/
theorem test_xfer_noack : (after (.xferNoack 0xFA 3) [] readyState).map
    (fun t => (emitted t, t.sclOut, t.sdaOut, t.res)) =
      some (vBits [0, 1, 0] ++ vTail, true, true, 0) := by decide

/-- V14: the tail with the level 0. -/
theorem test_xfer_noack_tail_level : (after (.xferNoack 0x02 3) []
    { readyState with params := { defaultParams with noackSdaLevel := false } }).map (fun t => (t.sdaOut, t.sclOut)) =
      some (false, true) := by decide

/-- V16, rows two and three: misses before the match, and a line that rises after the match. -/
theorem test_ackrd :
    (after (.ackrd false) [true, true, false, false] readyState).map (fun t => (emitted t, t.res)) =
      some (vA [.sample .sda true, .waitUs 1, .sample .sda true, .waitUs 1, .sample .sda false] false, 0) ∧
    (after (.ackrd false) [false, true] readyState).map (fun t => (emitted t, t.res)) =
      some (vA [.sample .sda false] true, 1) := by decide

/-- V16, the sixth row: 250 misses, and the final sample is 0 all the same. -/
theorem test_ackrd_final_sample_after_the_bound :
    (after (.ackrd false) (List.replicate 250 true ++ [false]) readyState).map
      (fun t => ((emitted t).length, t.res, t.levels)) = some (509, 0, []) := by decide

/-- V20: the top code, and the operand masked to 12 bits. -/
theorem test_cvtc2i :
    (after (.cvtc2i 4095) [] State.reset).map (·.res) = some 25000 ∧
    (after (.cvtc2i 4387) [] State.reset).map (·.res) = some 1777 := by decide

/-- V21, T2: a tie rounds up where banker's rounding would not, and the clamp at both ends. -/
theorem test_cvti2c :
    (after (.cvti2c 7500) [] State.reset).map (·.res) = some 1229 ∧
    (after (.cvti2c (-5000)) [] State.reset).map (·.res) = some 0 ∧
    (after (.cvti2c 30000) [] State.reset).map (·.res) = some 4095 := by decide

/-- V23, columns A and B: a tie inside the band, both ends, and one unit outside either end. -/
theorem test_cvti2c_calibrated :
    (after (.cvti2c 8000) [] { State.reset with calEn := true, calLo := 655, calHi := 3277 }).map (·.res) =
      some 1311 ∧
    [3999, 4000, 20000, 20001].map (fun c =>
      (after (.cvti2c c) [] { State.reset with calEn := true, calLo := 600, calHi := 3300 }).map (·.res)) =
      [some 655, some 600, some 3300, some 3276] := by decide

/-- V30. -/
theorem test_setcal :
    (after (.setcal 655 3277) [] State.reset).map (fun t => (t.calEn, t.calLo, t.calHi, t.res)) =
      some (true, 655, 3277, 0) := by decide

/-- V30: equal codes and a high code above 4095. -/
theorem test_setcal_rejects :
    (after (.setcal 7 7) [] State.reset) = some { State.reset with res := 1 } ∧
    (after (.setcal 100 4096) [] State.reset) = some { State.reset with res := 1 } := by decide

/-- V31. -/
theorem test_init : (after (.init 5 4) [false, false] State.reset).map
    (fun t => (emitted t, t.st, t.pinScl, t.pinSda, t.res)) =
      some (.mode .scl .out :: .mode .sda .out :: (vS ++ vByte [1, 0, 1, 1, 0, 0, 0, 0] ++ vP), .ready, 5, 4, 0) := by
  decide

/-- V32: the poll matched and the final sample did not. -/
theorem test_init_final_sample_decides : (after (.init 5 4) [false, true] State.reset).map
    (fun t => ((emitted t).length, t.st, t.pinScl, t.sclMode, t.res)) = some (73, .uninit, 5, .out, 2) := by decide

/-- V33: the bytes B0 02 30 12. -/
theorem test_wrcode : (after (.wrcode 291) (List.replicate 8 false) readyState).map
    (fun t => (emitted t, t.lastCode, t.res)) =
      some (vS ++ vByte [1, 0, 1, 1, 0, 0, 0, 0] ++ vByte [0, 0, 0, 0, 0, 0, 1, 0] ++
        vByte [0, 0, 1, 1, 0, 0, 0, 0] ++ vByte [0, 0, 0, 1, 0, 0, 1, 0] ++ vP, 291, 1777) := by decide

/-- V33: rejected, and the result is the current of the code before. -/
theorem test_wrcode_out_of_range :
    after (.wrcode 4096) [] { readyState with lastCode := 291 } =
      some { readyState with lastCode := 291, res := 1777 } := by decide

/-- V34: the tie at 8 mA, the bytes B0 02 F0 51. -/
theorem test_wrcur :
    (after (.wrcur 8000) (List.replicate 8 false)
      { readyState with calEn := true, calLo := 655, calHi := 3277 }).map (fun t => (emitted t, t.lastCode, t.res)) =
      some (vS ++ vByte [1, 0, 1, 1, 0, 0, 0, 0] ++ vByte [0, 0, 0, 0, 0, 0, 1, 0] ++
        vByte [1, 1, 1, 1, 0, 0, 0, 0] ++ vByte [0, 1, 0, 1, 0, 0, 0, 1] ++ vP, 1311, 1311) := by decide

/-- V40. -/
theorem test_persist : (after .persist (List.replicate 26 false) { readyState with lastCode := 2048 }).map
    (fun t => (sampleCount (emitted t), waitedUs (emitted t), waitedMs (emitted t), t.lastCode, t.res)) =
      some (26, 1340, 10, 2048, 0) := by decide

/-- V40: the trace in macro form. -/
theorem test_persist_trace : (after .persist (List.replicate 26 false) readyState).map emitted =
    some (vHeader ++
      vS ++ vByte [0, 0, 0, 1, 0, 0, 0, 0] ++ vByte [0, 0, 0, 0, 0, 0, 1, 1] ++ vP ++
      vS ++ vByte [1, 0, 1, 1, 0, 0, 0, 0] ++
      (List.replicate 8 (vByte [0, 0, 0, 0, 0, 0, 0, 0])).flatten ++ vP ++ vCommit ++ vHeader ++
      vS ++ vByte [0, 0, 0, 1, 0, 0, 0, 0] ++ vByte [0, 0, 0, 0, 0, 0, 0, 0] ++ vP) := by decide

/-- V2, V3: an illegal word, a bus command in UNINIT and an INIT in READY change the result only. -/
theorem test_illegal_response :
    nextOf (step { State.reset with words := [0x0500000001] }) = some { State.reset with res := 0xFFFFFFFF } ∧
    nextOf (step { State.reset with words := [0x0300000064] }) = some { State.reset with res := 0xFFFFFFFF } ∧
    nextOf (step { readyState with words := [0x0100050004] }) = some { readyState with res := 0xFFFFFFFF } := by
  decide

/-- The next step runs the placed word, and the event-grained view of it ends in the same state. -/
theorem test_placed_word_runs :
    nextOf (step (State.reset.withFetchWord 40 0x02028F0CCD)) =
      some { State.reset with calEn := true, calLo := 655, calHi := 3277 } ∧
    nextOf (step (readyState.withFetchWord 40 0x1000000000)) =
      some (ticks 9 (readyState.withFetchWord 40 0x1000000000)) := by decide

/-! ### Witnesses: the hypotheses of the statements of Certificates/Slice0/Obligations.lean can be met -/

/-- An INIT half way: its second mode event, a poll and the final sample are still to come. -/
def initFlight : Flight := ⟨.init 5 4, 1, [.emit (.mode .sda .out), .poll false, .finalSample], false⟩

/-- The block in the middle of that INIT. -/
def busyState : State :=
  { State.reset with
    busy := true, pinScl := 5, pinSda := 4, sclMode := .out, seq := .running initFlight
    words := [0x1000000000], levels := [false, false] }

/-- A calibrated READY block. -/
def calibratedState : State := { readyState with calEn := true, calLo := 600, calHi := 3300 }

/-- The states the invariant is shown to hold in. -/
theorem reset_inv : Inv State.reset :=
  ⟨by decide, by decide, by decide, by decide, fun f h => by simp [State.reset] at h⟩

theorem ready_inv : Inv calibratedState :=
  ⟨by decide, by decide, by decide, by decide, fun f h => by simp [calibratedState, readyState, State.reset] at h⟩

theorem busy_inv : Inv busyState :=
  ⟨by decide, by decide, by decide, by decide, fun f h => by
    obtain rfl : initFlight = f := by simpa [busyState] using h
    exact ⟨by decide, by decide, by decide, by decide⟩⟩

theorem witness_DecodeOfEncodeIsTheCommand :
    (Instr.xferAck 0xB0 8 true).WellFormed ∧ (Instr.xferNoack 0x01 1).WellFormed ∧ Instr.persist.WellFormed := by decide

theorem witness_EncodeOfDecodeIsTheWord : decodeWord 0x12030000FF = .ok (.xferAck 0xFF 1 true) := rfl

theorem witness_WordsDecodeExactlyByTheTable :
    (∃ r ∈ opcodeRows, r.accepts 0x0300001000 = true) ∧ ∀ r ∈ opcodeRows, r.accepts 0x0300010064 = false :=
  ⟨⟨⟨"WRCODE", 0x0300000000, 0xFFFFFF0000⟩, by decide, by decide⟩, by decide⟩

theorem witness_AssembledLineIsTheCommand :
    (Instr.xferAck 0xB0 8 false).WellFormed ∧ (Instr.init (-32768) 32767).WellFormed := by decide

theorem witness_StepRunsTheCommandOnThePort :
    State.reset.rst = false ∧ State.reset.seq = .idle ∧
    ({ State.reset with words := [0x0100050004] }).words = [0x0100050004] ∧
    decodeWord 0x0100050004 = .ok (.init 5 4) := ⟨rfl, rfl, rfl, rfl⟩

theorem witness_PlacedCommandRunsNext : (Instr.ackrd true).WellFormed := by decide

theorem witness_IllegalWordChangesOnlyTheResult :
    readyState.rst = false ∧ readyState.seq = .idle ∧
    ({ readyState with words := [0x1202020002, 0x1000000000] }).words = [0x1202020002, 0x1000000000] ∧
    decodeWord 0x1202020002 = .error (.reservedBits 0x12) := ⟨rfl, rfl, rfl, rfl⟩

theorem witness_GuardedCommandChangesOnlyTheResult : readyState.st = .ready ∧ State.reset.st = .uninit := ⟨rfl, rfl⟩

theorem witness_NothingPresentedWaits :
    readyState.rst = false ∧ readyState.seq = .idle ∧ readyState.words = [] := ⟨rfl, rfl, rfl⟩

theorem witness_HeldResetRestoresResetValues : ({ busyState with rst := true }).rst = true := rfl

theorem witness_BusyBlockAcceptsNoWord : busyState.rst = false ∧ busyState.seq = .running initFlight := ⟨rfl, rfl⟩

theorem witness_CommandInFlightIgnoresThePort : busyState.rst = false ∧ busyState.seq = .running initFlight :=
  ⟨rfl, rfl⟩

theorem witness_CommandInFlightEnds : busyState.rst = false ∧ busyState.seq = .running initFlight := ⟨rfl, rfl⟩

theorem witness_StepIsARunOfEvents :
    let s := { readyState with words := [0x1000000000] }
    s.rst = false ∧ s.busy = false ∧ s.seq = .idle ∧ s.words = [0x1000000000] := ⟨rfl, rfl, rfl, rfl⟩

theorem witness_StepKeepsTheInvariant :
    Inv calibratedState ∧ Inv busyState ∧ (∃ t, step calibratedState = .next t) ∧ ∃ t, step busyState = .next t :=
  ⟨ready_inv, busy_inv, ⟨_, rfl⟩, ⟨_, rfl⟩⟩

theorem witness_TickKeepsTheInvariant : Inv State.reset ∧ Inv calibratedState ∧ Inv busyState :=
  ⟨reset_inv, ready_inv, busy_inv⟩

theorem witness_FacadeStateMachine :
    (readyState.rst = false ∧ readyState.st = .ready) ∧
    ∃ t, exec (.init 5 4) { State.reset with levels := [false, false] } = .next t ∧
      ({ State.reset with levels := [false, false] }).st = .uninit ∧ t.st = .ready :=
  ⟨⟨rfl, rfl⟩, _, rfl, rfl, by decide⟩

theorem witness_WhatEachCommandMayWrite :
    (∃ t, exec (.setcal 655 3277) State.reset = .next t) ∧ (∃ t, exec (.wrcode 4095) readyState = .next t) ∧
    ∃ t, exec (.ackrd true) readyState = .next t := ⟨⟨_, rfl⟩, ⟨_, rfl⟩, ⟨_, rfl⟩⟩

theorem witness_StepOnlyAppendsToTheTrace : ∃ t, step { readyState with words := [0x0500000000] } = .next t :=
  ⟨_, rfl⟩

theorem witness_EachSampleTakesTheNextLevel : ∃ t, exec (.ackrd false) readyState = .next t := ⟨_, rfl⟩

theorem witness_ClockLineIsNeverReleasedOrSampled : ∃ t, exec .persist readyState = .next t := ⟨_, rfl⟩

theorem witness_SamplesOnlyWhileDataLineReleased :
    ∃ t, exec (.ackrd false) { readyState with levels := [false, false] } = .next t ∧
      emitted t = emitted readyState ++ vRelease ++ [.sample .sda false] ++ vFinal false :=
  ⟨_, rfl, by decide⟩

/-- Of every statement about a bus primitive or a writing command whose only hypothesis is that the block is READY:
`StartConditionEvents`, `StopConditionEvents`, `AckReadReleasesPollsSamplesRestores`, `PersistSendsTheStoreSequence`. -/
theorem witness_StartConditionEvents : readyState.st = .ready := rfl
theorem witness_StopConditionEvents : readyState.st = .ready := rfl
theorem witness_AckReadReleasesPollsSamplesRestores : readyState.st = .ready := rfl
theorem witness_PersistSendsTheStoreSequence : readyState.st = .ready := rfl

/-- Both ends of the width. -/
theorem witness_UnitTransfer : readyState.st = .ready ∧ (1 ≤ 1 ∧ 1 ≤ 8) ∧ (1 ≤ 8 ∧ 8 ≤ 8) := by decide

/-- The first poll sample matches, and the last one that can. -/
theorem witness_AckReadEndsAtTheFirstMatch :
    readyState.st = .ready ∧ 0 < readyState.params.ackPollMax ∧ 249 < readyState.params.ackPollMax ∧
    ({ readyState with levels := [false, true] }).levels = List.replicate 0 (!false) ++ false :: true :: [] ∧
    ({ readyState with levels := List.replicate 249 true ++ [false, false] }).levels =
      List.replicate 249 (!false) ++ false :: false :: [] := ⟨rfl, by decide, by decide, rfl, rfl⟩

theorem witness_AckReadTimesOutWithoutASignal :
    readyState.st = .ready ∧
    ({ readyState with levels := List.replicate 250 true ++ [false] }).levels =
      List.replicate readyState.params.ackPollMax (!false) ++ false :: [] := ⟨rfl, rfl⟩

theorem witness_AckReadSampleCountIsBounded :
    readyState.st = .ready ∧ 1 ≤ readyState.params.ackPollMax ∧ ∃ t, exec (.ackrd true) readyState = .next t :=
  ⟨rfl, by decide, ⟨_, rfl⟩⟩

theorem witness_RoundHalfUpDivision : 0 < 4095 := by decide

/-- Each clause at the boundary of its range: below 0 and above 25·K; the band at both ends; and the direct path at 0, one
below and one above the band, at 25·K, and inside the band when calibration is off. -/
theorem witness_CurrentToCodeCommand :
    (1 ≤ calibratedState.params.k ∧ CalOrdered calibratedState ∧ calibratedState.calEn = true ∧
      calibratedState.params.k = 1000) ∧
    (1 ≤ readyState.params.k ∧ CalOrdered readyState ∧ readyState.calEn = false) ∧
    (-1#32).toInt = -1 ∧ (25001#32).toInt = 25001 ∧
    (4000#32).toInt = 4000 ∧ (20000#32).toInt = 20000 ∧
    (0#32).toInt = 0 ∧ (3999#32).toInt = 3999 ∧ (20001#32).toInt = 20001 ∧ (25000#32).toInt = 25000 := by decide

theorem witness_ConvertedCodeFitsTwelveBits :
    1 ≤ calibratedState.params.k ∧ CalOrdered calibratedState ∧
    ∃ t, exec (.cvti2c 20000) calibratedState = .next t := ⟨by decide, by decide, ⟨_, rfl⟩⟩

/-- At the coarsest format the statement covers, and at the default. -/
theorem witness_RoundTripRecoversTheCode :
    (readyState.calEn = false ∧ 164 ≤ readyState.params.k ∧ 25 * readyState.params.k < 2 ^ 31 ∧
      (4095#16).toNat ≤ 4095) ∧
    (164 ≤ { defaultParams with k := 164 }.k ∧ 25 * { defaultParams with k := 164 }.k < 2 ^ 31) := by decide

theorem witness_BandEndsGiveTheCalibrationCodes :
    calibratedState.calEn = true ∧ CalOrdered calibratedState ∧ 1 ≤ calibratedState.params.k ∧
    20 * calibratedState.params.k < 2 ^ 31 := by decide

/-- Each identifier alone can be invalid; the least and the greatest valid identifier. -/
theorem witness_InitIsGatedByThePresenceCheck :
    State.reset.st = .uninit ∧
    ¬ (pinOk State.reset.params.pinValid (-1) = true ∧ pinOk State.reset.params.pinValid 4 = true) ∧
    ¬ (pinOk State.reset.params.pinValid 5 = true ∧ pinOk State.reset.params.pinValid (-32768) = true) ∧
    pinOk State.reset.params.pinValid 0 = true ∧ pinOk State.reset.params.pinValid 32767 = true := by decide

theorem witness_InitSucceedsAtOnceAndFailsOnSilence :
    State.reset.st = .uninit ∧ 1 ≤ State.reset.params.ackPollMax ∧
    pinOk State.reset.params.pinValid 5 = true ∧ pinOk State.reset.params.pinValid 4 = true ∧
    ({ State.reset with levels := [false, false] }).levels =
      State.reset.params.ackLevel :: State.reset.params.ackLevel :: [] ∧
    ({ State.reset with levels := List.replicate 251 true }).levels =
      List.replicate (State.reset.params.ackPollMax + 1) (!State.reset.params.ackLevel) ++ [] :=
  ⟨rfl, by decide, by decide, by decide, rfl, rfl⟩

/-- Accepted and rejected pairs at the boundary. -/
theorem witness_SetCalibrationAcceptsOrderedPairs :
    ((4094#16).toNat < (4095#16).toNat ∧ (4095#16).toNat ≤ 4095) ∧ (7#16).toNat ≥ (7#16).toNat ∧
    (4096#16).toNat > 4095 := by decide

/-- Both sides of the bound. -/
theorem witness_WrcodeSendsTheCode :
    readyState.st = .ready ∧ 4095 < (4096#16).toNat ∧ (4095#16).toNat ≤ 4095 := by decide

theorem witness_WrcurSendsTheConvertedCode :
    calibratedState.st = .ready ∧ 1 ≤ calibratedState.params.k ∧ CalOrdered calibratedState := by decide

theorem witness_WrcurIsConvertThenWrcode :
    calibratedState.st = .ready ∧ 1 ≤ calibratedState.params.k ∧ CalOrdered calibratedState := by decide

theorem witness_WriteFrameOnTheBus :
    readyState.st = .ready ∧ (0#16).toNat ≤ 4095 ∧ pinsOf readyState = ⟨.out, true, .out, true⟩ := by decide

theorem witness_PersistOnTheBus :
    readyState.st = .ready ∧ pinsOf readyState = ⟨.out, true, .out, true⟩ := by decide

/-- The line states of the clauses: both high; clock high and data low; clock low. The widths are 1 and 8, and the
released data line is high and low. -/
theorem witness_PrimitivesInOtherLineStates :
    (readyState.st = .ready ∧ readyState.sclMode = .out ∧ readyState.sdaMode = .out) ∧
    (readyState.sclOut = true ∧ readyState.sdaOut = true) ∧
    (({ readyState with sdaOut := false }).sclOut = true ∧ ({ readyState with sdaOut := false }).sdaOut = false) ∧
    ({ readyState with sclOut := false }).sclOut = false ∧ (0 < 8 ∧ 7 < 8) ∧
    undriven.sda = true ∧ readyState.sdaOut = undriven.sda := by decide

theorem witness_SampledLevelsReachNoState :
    (∃ c, Instr.wrcode 291 = .wrcode c) ∧ (∃ c, Instr.wrcur 12000 = .wrcur c) ∧ Instr.persist = .persist :=
  ⟨⟨_, rfl⟩, ⟨_, rfl⟩, rfl⟩

theorem witness_PinIdentifiersOnlyNameTheLines :
    (∀ x y, Instr.wrcode 291 ≠ .init x y) ∧ ∃ t, exec (.wrcode 291) readyState = .next t :=
  ⟨fun _ _ => by simp, ⟨_, rfl⟩⟩

theorem witness_AcknowledgedWriteFrameCounts :
    readyState.st = .ready ∧ (4095#16).toNat ≤ 4095 ∧ 1 ≤ readyState.params.ackPollMax ∧
    ({ readyState with levels := List.replicate 8 false }).levels =
      List.replicate 8 readyState.params.ackLevel ++ [] := ⟨rfl, by decide, by decide, rfl⟩

theorem witness_EveryCommandEmitsBoundedlyManyEvents :
    (Instr.xferAck 0xFF 8 true).WellFormed ∧ 1 ≤ readyState.params.ackPollMax := by decide

/-- The first write changes the data line and does not; the released line is low and high; the widths are 1 and 8. -/
theorem witness_AcknowledgedPrimitivesInOtherLineStates :
    (readyState.st = .ready ∧ readyState.sclMode = .out ∧ readyState.sdaMode = .out ∧ readyState.sclOut = true) ∧
    (0 < 8 ∧ 7 < 8) ∧ readyState.sdaOut = true ∧ (0x7F#8).getLsbD 7 = false ∧ (0x01#8).getLsbD 0 = true ∧
    (Released.mk true false).sda = false ∧ undriven.sda = true := by decide

end Sys2Proof.Tests
end

section
/-! PROOFS. The family of 00_scope.md: the two views of a command agree (R5), and its samples take the environment's
next levels (R6). Both rest on `RunsAs`: an executed command is its first writes, its list of micro-operations and its
last writes, and the list does to the state what the command's meaning does. -/

namespace Sys2Proof.Proofs

open Sys2Proof.Machine

/-! ### Which commands are executed, and what they write outside their events -/

theorem exec_of_not_executedIn {i : Instr} {s : State} (h : executedIn i s.st = false) :
    exec i s = .next (illegalResponse s) := by
  cases i with
  | setcal | cvtc2i | cvti2c => cases h
  | init | wrcode | wrcur | persist | start | stop | xferAck | xferNoack | ackrd =>
    exact congrArg _ (guarded_of_ne _ _ s (of_decide_eq_false h))

/-- The writes before the first event touch neither the sequencer nor the lines nor the record of events. -/
theorem writeAtStart_frame (i : Instr) (s : State) :
    SameControl s (writeAtStart i s) ∧ NoEvent s (writeAtStart i s) := by
  cases i with
  | init a b => by_cases h : pinsOk s.params a b <;> simp [SameControl, NoEvent, writeAtStart, bindPins, h]
  | wrcode code => by_cases h : codeOk code <;> simp [SameControl, NoEvent, writeAtStart, h]
  | _ => simp [SameControl, NoEvent, writeAtStart]

/-- The writes after the last event touch neither the sequencer nor the lines nor the record of events. -/
theorem writeAtEnd_frame (i : Instr) (ack : Level) (s : State) :
    SameControl s (writeAtEnd i ack s) ∧ NoEvent s (writeAtEnd i ack s) := by
  cases i with
  | init a b =>
    by_cases h : pinsOk s.params a b <;> by_cases h' : ack = s.params.ackLevel <;>
      simp [SameControl, NoEvent, writeAtEnd, presenceResult, h, h']
  | setcal lo hi => by_cases h : calOk lo hi <;> simp [SameControl, NoEvent, writeAtEnd, h]
  | _ => simp [SameControl, NoEvent, writeAtEnd]

/-! ### The parameters stay as they are under every primitive -/

@[simp] theorem startCond_params (s : State) : (startCond s).params = s.params := (runs_startCond s).params

@[simp] theorem bitCycle_params (v : Level) (s : State) : (bitCycle v s).params = s.params := (runs_bitCycle v s).params

@[simp] theorem sendBits_params (bits : List Level) (s : State) : (sendBits bits s).params = s.params :=
  (runs_sendBits bits s).params

@[simp] theorem pollPhase_params (exp : Level) (s : State) : (pollPhase exp s).params = s.params := by
  obtain ⟨_, _, h⟩ := pollPhase_spec exp s
  exact h.params

@[simp] theorem releasePhase_params (s : State) : (releasePhase s).params = s.params := (runs_releasePhase s).params

@[simp] theorem unitAck_params (data : Byte) (n : Nat) (exp : Level) (s : State) :
    (unitAck data n exp s).2.params = s.params := by
  obtain ⟨_, _, h⟩ := unitAck_spec data n exp s
  exact h.params

@[simp] theorem unitNoack_params (data : Byte) (n : Nat) (s : State) : (unitNoack data n s).params = s.params :=
  (runs_unitNoack data n s).params

@[simp] theorem sendBytesExp_params (vs : List Byte) (exp : Level) (s : State) :
    (sendBytesExp vs exp s).params = s.params := by
  obtain ⟨_, _, h⟩ := sendBytesExp_spec vs exp s
  exact h.params

@[simp] theorem bytesFrame_params (vs : List Byte) (exp : Level) (s : State) :
    (bytesFrame vs exp s).params = s.params := by
  obtain ⟨_, _, h⟩ := bytesFrame_spec vs exp s
  exact h.params

@[simp] theorem headerFrame_params (s : State) : (headerFrame s).params = s.params := (runs_headerFrame s).params

/-! ### Small steps of a busy block -/

/-- One small step, taken while `busy` is 1. -/
def BusyTick (s t : State) : Prop := s.busy = true ∧ tick s = t

/-- A chain of such steps is a number of small steps, `busy` being 1 before each of them. -/
theorem ticks_of_busyTicks {s t : State} (h : Relation.ReflTransGen BusyTick s t) :
    ∃ n, ticks n s = t ∧ ∀ m < n, (ticks m s).busy = true := by
  induction h using Relation.ReflTransGen.head_induction_on with
  | refl => exact ⟨0, rfl, fun _ h => absurd h (Nat.not_lt_zero _)⟩
  | @head s u h _ ih =>
    obtain ⟨hbusy, rfl⟩ := h
    obtain ⟨n, hn, hb⟩ := ih
    refine ⟨n + 1, hn, fun m hm => ?_⟩
    cases m with
    | zero => exact hbusy
    | succ m => exact hb m (Nat.lt_of_succ_lt_succ hm)

/-- The state with a command in flight, not held in reset. -/
def inFlight (f : Flight) (s : State) : State := { s with busy := true, rst := false, seq := .running f }

theorem busyTick_inFlight (f : Flight) (s : State) : BusyTick (inFlight f s) (advance f (inFlight f s)) :=
  ⟨rfl, rfl⟩

/-- The list `ops` takes the last acknowledgment level from `a` to `b` and the state from `s` to `t`: every flight that
has `ops` before it comes by busy small steps to the rest of its list. -/
def Does (ops : List MicroOp) (a : Level) (s : State) (b : Level) (t : State) : Prop :=
  ∀ cmd index rest, ∃ index', Relation.ReflTransGen BusyTick
    (inFlight ⟨cmd, index, ops ++ rest, a⟩ s) (inFlight ⟨cmd, index', rest, b⟩ t)

theorem Does.nil (a : Level) (s : State) : Does [] a s a s := fun _ index _ => ⟨index, .refl⟩

theorem Does.append {xs ys : List MicroOp} {a b c : Level} {s t u : State} (h : Does xs a s b t)
    (k : Does ys b t c u) : Does (xs ++ ys) a s c u := by
  intro cmd index rest
  obtain ⟨j, hj⟩ := h cmd index (ys ++ rest)
  obtain ⟨l, hl⟩ := k cmd j rest
  rw [List.append_assoc]
  exact ⟨l, hj.trans hl⟩

/-- One small step that puts `ops` in the place of an entry, then `ops`. -/
theorem Does.step {op : MicroOp} {ops : List MicroOp} {a b c : Level} {s t u : State}
    (h : ∀ cmd index rest, ∃ index',
      advance ⟨cmd, index, op :: rest, a⟩ (inFlight ⟨cmd, index, op :: rest, a⟩ s) =
        inFlight ⟨cmd, index', ops ++ rest, b⟩ t)
    (k : Does ops b t c u) : Does [op] a s c u := by
  intro cmd index rest
  obtain ⟨j, hj⟩ := h cmd index rest
  obtain ⟨l, hl⟩ := k cmd j rest
  exact ⟨l, .head ⟨rfl, hj⟩ hl⟩

theorem Does.one {op : MicroOp} {a b : Level} {s t : State}
    (h : ∀ cmd index rest, ∃ index',
      advance ⟨cmd, index, op :: rest, a⟩ (inFlight ⟨cmd, index, op :: rest, a⟩ s) =
        inFlight ⟨cmd, index', rest, b⟩ t) : Does [op] a s b t :=
  .step (ops := []) h (.nil b t)

/-! ### The entries of a list -/

theorem emitEvent_inFlight (e : Event) (f g : Flight) (s : State) :
    { emitEvent e (inFlight f s) with seq := .running g } = inFlight g (emitEvent e s) := by
  cases e with
  | mode line m => cases line <;> rfl
  | drive line v => cases line <;> rfl
  | sample | waitUs | waitMs => rfl

theorem does_emit (e : Event) (a : Level) (s : State) : Does [.emit e] a s a (emitEvent e s) :=
  .one fun _ index _ => ⟨index + 1, emitEvent_inFlight e _ _ s⟩

/-- A list of mode, drive and wait events is emitted one after another. -/
theorem does_emits (evs : List Event) (a : Level) (s : State) :
    Does (evs.map .emit) a s a (evs.foldl (fun s e => emitEvent e s) s) := by
  induction evs generalizing s with
  | nil => exact .nil a s
  | cons e rest ih => exact (does_emit e a s).append (ih _)

theorem does_clearPoll (a : Level) (s : State) : Does [.clearPoll] a s a { s with pollCnt := 0 } :=
  .one fun _ index _ => ⟨index, rfl⟩

theorem does_pollWait {exp a b : Level} {s t : State}
    (k : Does [.poll exp] a { hold s.params.holds.poll s with pollCnt := s.pollCnt + 1 } b t) :
    Does [.pollWait exp] a s b t :=
  .step (fun _ index _ => ⟨index + 1, rfl⟩) k

theorem does_finalSample (a : Level) (s : State) : Does [.finalSample] a s (nextLevel s) (sampleSda s) :=
  .one fun _ index _ => ⟨index + 1, rfl⟩

/-- The entry of the poll loop does what the loop does, from any counter on the way to the bound. -/
theorem does_poll (exp a : Level) (fuel : Nat) (s : State) (h : s.pollCnt + fuel = s.params.ackPollMax) :
    Does [.poll exp] a s a (pollLoop exp fuel s) := by
  induction fuel generalizing s with
  | zero => exact .one fun _ index _ => ⟨index, if_neg h.not_lt⟩
  | succ n ih =>
    have hlt : s.pollCnt < s.params.ackPollMax := by omega
    by_cases hm : nextLevel s = exp
    · rw [pollLoop, if_pos hlt, if_pos hm]
      exact .one fun _ index _ => ⟨index + 1, (if_pos hlt).trans (if_pos hm)⟩
    · rw [pollLoop, if_pos hlt, if_neg hm]
      exact .step (ops := [.pollWait exp]) (b := a) (t := sampleSda s)
        (fun _ index _ => ⟨index + 1, (if_pos hlt).trans (if_neg hm)⟩) (does_pollWait (ih _ (by simp; omega)))

theorem does_pollPhase (exp a : Level) (s : State) : Does [.clearPoll, .poll exp] a s a (pollPhase exp s) :=
  (does_clearPoll a s).append (does_poll exp a _ _ (Nat.zero_add _))

/-! ### The lists of the primitives and of the frames -/

theorem does_startOps (a : Level) (s : State) : Does (startOps s.params) a s a (startCond s) :=
  does_emits (traceS s.params) a s

theorem does_stopOps (a : Level) (s : State) : Does (stopOps s.params) a s a (stopCond s) :=
  does_emits (traceP s.params) a s

theorem does_bitOps (v a : Level) (s : State) : Does (bitOps s.params v) a s a (bitCycle v s) :=
  does_emits (traceBit s.params v) a s

theorem does_tailOps (a : Level) (s : State) : Does (tailOps s.params) a s a (noAckTail s) :=
  does_emits (traceT s.params) a s

theorem does_bits (bits : List Level) (a : Level) (s : State) :
    Does (bits.flatMap (bitOps s.params)) a s a (sendBits bits s) := by
  induction bits generalizing s with
  | nil => exact .nil a s
  | cons v rest ih => simpa [sendBits] using (does_bitOps v a s).append (ih (bitCycle v s))

theorem does_release (a : Level) (s : State) :
    Does [.emit (.mode .sda .inPu), holdOp s.params s.params.holds.a1, .emit (.drive .scl true),
      holdOp s.params s.params.holds.a2] a s a (releasePhase s) :=
  does_emits
    [.mode .sda .inPu, traceHold s.params s.params.holds.a1, .drive .scl true, traceHold s.params s.params.holds.a2] a s

theorem does_restore (a : Level) (s : State) :
    Does [holdOp s.params s.params.holds.a3, .emit (.drive .scl false), holdOp s.params s.params.holds.a4,
      .emit (.mode .sda .out)] a s a (restorePhase s) :=
  does_emits
    [traceHold s.params s.params.holds.a3, .drive .scl false, traceHold s.params s.params.holds.a4, .mode .sda .out] a s

theorem does_ackOps (exp a : Level) (s : State) :
    Does (ackOps s.params exp) a s (ackRead exp s).1 (ackRead exp s).2 := by
  have release := does_release a s
  have poll := does_pollPhase exp a (releasePhase s)
  have final := does_finalSample a (pollPhase exp (releasePhase s))
  have restore := does_restore (nextLevel (pollPhase exp (releasePhase s))) (sampleSda (pollPhase exp (releasePhase s)))
  simpa [ackOps, ackRead] using ((release.append poll).append final).append restore

theorem does_unitAckOps (data : Byte) (n : Nat) (exp a : Level) (s : State) :
    Does (unitAckOps s.params data n exp) a s (unitAck data n exp s).1 (unitAck data n exp s).2 := by
  simpa [unitAckOps, unitAck] using
    (does_bits (unitBits data n) a s).append (does_ackOps exp a (sendBits (unitBits data n) s))

theorem does_unitNoackOps (data : Byte) (n : Nat) (a : Level) (s : State) :
    Does (unitNoackOps s.params data n) a s a (unitNoack data n s) := by
  simpa [unitNoackOps, unitNoack] using
    (does_bits (unitBits data n) a s).append (does_tailOps a (sendBits (unitBits data n) s))

theorem does_bytes (vs : List Byte) (exp a : Level) (s : State) :
    ∃ b, Does (vs.flatMap fun v => unitAckOps s.params v 8 exp) a s b (sendBytesExp vs exp s) := by
  induction vs generalizing a s with
  | nil => exact ⟨a, .nil a s⟩
  | cons v rest ih =>
    have first := does_unitAckOps v 8 exp a s
    obtain ⟨b, others⟩ := ih (unitAck v 8 exp s).1 (unitAck v 8 exp s).2
    exact ⟨b, by simpa [sendBytesExp, sendByteExp] using first.append others⟩

theorem does_bytesFrameOps (vs : List Byte) (exp a : Level) (s : State) :
    ∃ b, Does (bytesFrameOps s.params vs exp) a s b (bytesFrame vs exp s) := by
  obtain ⟨b, bytes⟩ := does_bytes vs exp a (startCond s)
  exact ⟨b, by
    simpa [bytesFrameOps, bytesFrame] using ((does_startOps a s).append bytes).append (does_stopOps b _)⟩

theorem does_headerFrameOps (a : Level) (s : State) : Does (headerFrameOps s.params) a s a (headerFrame s) := by
  simpa [headerFrameOps, headerFrame] using
    ((does_startOps a s).append (does_unitNoackOps Config.hdr 3 a (startCond s))).append (does_stopOps a _)

theorem does_writeFrameOps (c : BitVec 12) (a : Level) (s : State) :
    ∃ b, Does (writeFrameOps s.params c) a s b (writeFrame c s) := by
  rw [writeFrame_eq]
  exact does_bytesFrameOps _ _ a s

/-- A frame of bytes after what went before. -/
theorem Does.append_bytesFrame {ops : List MicroOp} {a b : Level} {s t : State} (h : Does ops a s b t)
    (hp : t.params = s.params) (vs : List Byte) (exp : Level) :
    ∃ c, Does (ops ++ bytesFrameOps s.params vs exp) a s c (bytesFrame vs exp t) := by
  obtain ⟨c, frame⟩ := does_bytesFrameOps vs exp b t
  rw [hp] at frame
  exact ⟨c, h.append frame⟩

theorem does_persistOps (a : Level) (s : State) : ∃ b, Does (persistOps s.params) a s b (persistPhases s) := by
  have phase1 := does_headerFrameOps a s
  obtain ⟨b, phase2⟩ := phase1.append_bytesFrame (by simp) [Config.pAddr, Config.pCmd1] s.params.expCmd
  obtain ⟨c, phase3⟩ := phase2.append_bytesFrame (by simp) (unlockBytes s.params) s.params.expUnlock
  have phase4 := phase3.append (does_emit (.waitMs s.params.tCommitMs) c _)
  have phase5a := phase4.append (does_headerFrameOps c _)
  obtain ⟨d, phase5b⟩ :=
    phase5a.append_bytesFrame (by simp [emitEvent]) [Config.pAddr, Config.pCmd2] s.params.expCmd
  exact ⟨d, by simpa [persistOps, persistPhases, emitEvent] using phase5b⟩

theorem does_presenceOps (a : Level) (s : State) :
    Does (presenceOps s.params) a s (presenceCheck s).1 (presenceCheck s).2 := by
  have modes := does_emits [.mode .scl .out, .mode .sda .out] a s
  have start := does_startOps a (setMode .sda .out (setMode .scl .out s))
  have unit := does_unitAckOps (addrByte s.params) 8 s.params.ackLevel a
    (startCond (setMode .sda .out (setMode .scl .out s)))
  have all := ((modes.append start).append unit).append (does_stopOps _ _)
  simpa [presenceOps, presenceCheck, bytesFrameOps, emitEvent] using all

theorem runs_writeFrame (c : BitVec 12) (s : State) : ∃ evs, Runs s (writeFrame c s) evs := by
  rw [writeFrame_eq]
  obtain ⟨evs, _, h⟩ := bytesFrame_spec _ _ s
  exact ⟨evs, h⟩

theorem runs_persistPhases (s : State) : ∃ evs, Runs s (persistPhases s) evs := by
  have h1 := runs_headerFrame s
  obtain ⟨_, _, h2⟩ := bytesFrame_spec [Config.pAddr, Config.pCmd1] (headerFrame s).params.expCmd (headerFrame s)
  obtain ⟨_, _, h3⟩ := bytesFrame_spec (unlockBytes _) _ (bytesFrame _ _ (headerFrame s))
  obtain ⟨_, _, h6⟩ := bytesFrame_spec [Config.pAddr, Config.pCmd2] _ (headerFrame (waitMs _ _))
  exact ⟨_, ((((h1.trans h2).trans h3).trans (runs_waitMs _ _)).trans (runs_headerFrame _)).trans h6⟩

theorem runs_presenceCheck (s : State) : ∃ evs, Runs s (presenceCheck s).2 evs := by
  have modes := (runs_setMode .scl .out s).trans (runs_setMode .sda .out _)
  have start := modes.trans (runs_startCond _)
  obtain ⟨_, _, unit⟩ := unitAck_spec (addrByte _) 8 _ (startCond (setMode .sda .out (setMode .scl .out s)))
  exact ⟨_, (start.trans unit).trans (runs_stopCond _)⟩

/-! ### The two views of an executed command -/

/-- The command is its first writes, then its list, then its last writes, in the one view and in the other: the list
does to the state what the meaning of the command does, and this is a run of events. -/
def RunsAs (i : Instr) (s : State) : Prop :=
  ∃ ack u evs, Does (commandOps i s) false (writeAtStart i s) ack u ∧ Runs (writeAtStart i s) u evs ∧
    exec i s = .next (writeAtEnd i ack u)

/-- A command with an empty list. -/
theorem runsAs_of_no_events {i : Instr} {s : State} (hops : commandOps i s = []) (hstart : writeAtStart i s = s)
    (hexec : exec i s = .next (writeAtEnd i false s)) : RunsAs i s := by
  rw [RunsAs, hops, hstart]
  exact ⟨false, s, [], .nil false s, Runs.refl s, hexec⟩

theorem next_guarded_of_eq {need : DevState} {body : State → State} {s : State} (h : s.st = need) :
    (.next (guarded need body s) : Host.Outcome State Fault Refusal) = .next (body s) :=
  congrArg _ (guarded_of_eq need body s h)

theorem init_runsAs (a b : BitVec 16) (s : State) (h : s.st = .uninit) : RunsAs (.init a b) s := by
  have hx : exec (.init a b) s = .next (initBody a b s) := next_guarded_of_eq h
  by_cases hp : pinsOk s.params a b
  · obtain ⟨evs, hr⟩ := runs_presenceCheck (bindPins a b s)
    have hd := does_presenceOps false (bindPins a b s)
    refine ⟨(presenceCheck (bindPins a b s)).1, (presenceCheck (bindPins a b s)).2, evs, ?_, ?_, hx.trans ?_⟩
    · simpa [commandOps, writeAtStart, hp] using hd
    · simpa [writeAtStart, hp] using hr
    · have hu : (presenceCheck (bindPins a b s)).2.params = s.params := hr.params
      simp [initBody, writeAtEnd, hu, hp]
  · exact runsAs_of_no_events (by simp [commandOps, hp]) (by simp [writeAtStart, hp])
      (hx.trans (by simp [initBody, writeAtEnd, hp]))

theorem wrcode_runsAs (code : BitVec 16) (s : State) (h : s.st = .ready) : RunsAs (.wrcode code) s := by
  have hx : exec (.wrcode code) s = .next (wrcodeBody code s) := next_guarded_of_eq h
  by_cases hc : codeOk code
  · obtain ⟨ack, hd⟩ := does_writeFrameOps (low12 code) false { s with lastCode := low12 code }
    obtain ⟨evs, hr⟩ := runs_writeFrame (low12 code) { s with lastCode := low12 code }
    refine ⟨ack, writeCode (low12 code) s, evs, ?_, ?_, hx.trans ?_⟩
    · simpa [commandOps, writeAtStart, writeCode, hc] using hd
    · simpa [writeAtStart, writeCode, hc] using hr
    · simp [wrcodeBody, writeAtEnd, writeCode, currentResult, hc, hr.lastCode, hr.params]
  · exact runsAs_of_no_events (by simp [commandOps, hc]) (by simp [writeAtStart, hc])
      (hx.trans (by simp [wrcodeBody, writeAtEnd, hc]))

theorem wrcur_runsAs (cur : BitVec 32) (s : State) (h : s.st = .ready) : RunsAs (.wrcur cur) s := by
  obtain ⟨ack, hd⟩ := does_writeFrameOps (wrcurCode cur s) false { s with lastCode := wrcurCode cur s }
  obtain ⟨evs, hr⟩ := runs_writeFrame (wrcurCode cur s) { s with lastCode := wrcurCode cur s }
  exact ⟨ack, _, evs, hd, hr, (next_guarded_of_eq h).trans (by simp [writeAtEnd, writeCode, hr.lastCode])⟩

theorem persist_runsAs (s : State) (h : s.st = .ready) : RunsAs .persist s := by
  obtain ⟨ack, hd⟩ := does_persistOps false s
  obtain ⟨evs, hr⟩ := runs_persistPhases s
  exact ⟨ack, _, evs, hd, hr, next_guarded_of_eq h⟩

theorem xferAck_runsAs (data : Byte) (n : Nat) (exp : Level) (s : State) (h : s.st = .ready) :
    RunsAs (.xferAck data n exp) s := by
  obtain ⟨evs, -, hr⟩ := unitAck_spec data n exp s
  exact ⟨_, _, evs, does_unitAckOps data n exp false s, hr, next_guarded_of_eq h⟩

theorem ackrd_runsAs (exp : Level) (s : State) (h : s.st = .ready) : RunsAs (.ackrd exp) s := by
  obtain ⟨evs, -, hr⟩ := ackRead_spec exp s
  exact ⟨_, _, evs, does_ackOps exp false s, hr, next_guarded_of_eq h⟩

theorem runsAs_of_executedIn {i : Instr} {s : State} (h : executedIn i s.st = true) : RunsAs i s := by
  cases i with
  | init a b => exact init_runsAs a b s (of_decide_eq_true h)
  | setcal lo hi => exact runsAs_of_no_events rfl rfl rfl
  | wrcode code => exact wrcode_runsAs code s (of_decide_eq_true h)
  | wrcur cur => exact wrcur_runsAs cur s (of_decide_eq_true h)
  | persist => exact persist_runsAs s (of_decide_eq_true h)
  | cvtc2i code => exact runsAs_of_no_events rfl rfl rfl
  | cvti2c cur => exact runsAs_of_no_events rfl rfl rfl
  | start =>
    exact ⟨_, _, _, does_startOps false s, runs_startCond s, next_guarded_of_eq (of_decide_eq_true h)⟩
  | stop =>
    exact ⟨_, _, _, does_stopOps false s, runs_stopCond s, next_guarded_of_eq (of_decide_eq_true h)⟩
  | xferAck data n exp => exact xferAck_runsAs data n exp s (of_decide_eq_true h)
  | xferNoack data n =>
    exact ⟨_, _, _, does_unitNoackOps data n false s, runs_unitNoack data n s, next_guarded_of_eq (of_decide_eq_true h)⟩
  | ackrd exp => exact ackrd_runsAs exp s (of_decide_eq_true h)

/-! ### Samples (00_scope.md R6) -/

theorem envLevel_of_noEvent {s t : State} (h : NoEvent s t) : envLevel t = envLevel s := by
  obtain ⟨-, -, -, -, -, hl, hd, -⟩ := h
  funext j
  simp [envLevel, hl, hd]

theorem emitted_of_noEvent {s t : State} (h : NoEvent s t) : emitted t = emitted s := by
  obtain ⟨-, -, -, -, -, -, -, ht⟩ := h
  simp [emitted, ht]

/-- Settles O23: the events of an executed command are a run of events, in which each sample takes the next level, and
no write before or after them is an event; a command that is not executed emits none. -/
theorem eachSampleTakesTheNextLevel : Obligations.EachSampleTakesTheNextLevel := by
  intro i s t ht
  cases h : executedIn i s.st with
  | true =>
    obtain ⟨ack, u, evs, -, hr, hx⟩ := runsAs_of_executedIn h
    obtain rfl : writeAtEnd i ack u = t := by simpa [hx] using ht
    have hs := (writeAtStart_frame i s).2
    have he := (writeAtEnd_frame i ack u).2
    have hemit : emitted (writeAtEnd i ack u) = emitted s ++ evs := by
      rw [emitted_of_noEvent he, hr.emits, emitted_of_noEvent hs]
    have hlevels := hr.sampled
    rw [envLevel_of_noEvent hs] at hlevels
    obtain ⟨-, -, -, -, -, hsl, hsd, -⟩ := hs
    obtain ⟨-, -, -, -, -, hel, hed, -⟩ := he
    exact ⟨evs, hemit, hlevels, by rw [hel, hr.levels, hsl], by rw [hed, hr.draws, hsd]⟩
  | false =>
    obtain rfl : illegalResponse s = t := by simpa [exec_of_not_executedIn h] using ht
    exact ⟨[], by simp [illegalResponse, emitted, sampleCount]⟩

/-! ### The step of a command and its small steps (00_scope.md R5) -/

/-- Acceptance puts the list of an executed command in flight. -/
theorem accept_eq_inFlight {i : Instr} {s : State} (h : executedIn i s.st = true) (hrst : s.rst = false) :
    accept i s = inFlight ⟨i, 0, commandOps i s, false⟩ (writeAtStart i s) := by
  obtain ⟨-, -, hr, -⟩ := (writeAtStart_frame i s).1
  simp [accept, h, inFlight, hr, hrst]

theorem accept_of_not_executedIn {i : Instr} {s : State} (h : executedIn i s.st = false) :
    accept i s = illegalResponse s := by
  simp [accept, h]

/-- The last writes read and write nothing of the sequencer. -/
theorem writeAtEnd_inFlight (i : Instr) (ack : Level) (f : Flight) (s : State) :
    writeAtEnd i ack (inFlight f s) = inFlight f (writeAtEnd i ack s) := by
  cases i with
  | init a b =>
    by_cases hp : pinsOk s.params a b <;> by_cases hl : ack = s.params.ackLevel <;>
      simp [writeAtEnd, presenceResult, setRes, inFlight, hp, hl]
  | setcal lo hi => by_cases hc : calOk lo hi <;> simp [writeAtEnd, setRes, inFlight, hc]
  | wrcode | wrcur | persist | cvtc2i | cvti2c | start | stop | xferAck | xferNoack | ackrd => rfl

theorem stop_inFlight (f : Flight) (s : State) (hb : s.busy = false) (hr : s.rst = false) (hq : s.seq = .idle) :
    { inFlight f s with busy := false, seq := .idle } = s := by
  cases s
  simp_all [inFlight]

/-- The idle block after a command: its last writes. -/
theorem advance_last (i : Instr) (index : Nat) (ack : Level) (s : State) (hb : s.busy = false) (hr : s.rst = false)
    (hq : s.seq = .idle) :
    advance ⟨i, index, [], ack⟩ (inFlight ⟨i, index, [], ack⟩ s) = writeAtEnd i ack s := by
  obtain ⟨eb, eq, er, -⟩ := (writeAtEnd_frame i ack s).1
  rw [advance, writeAtEnd_inFlight]
  exact stop_inFlight _ _ (eb.trans hb) (er.trans hr) (eq.trans hq)

/-- An idle block that runs `i`: the meaning of the command is reached from its acceptance by busy small steps. -/
theorem accept_busyTicks_exec (i : Instr) (s : State) (hrst : s.rst = false) (hbusy : s.busy = false)
    (hseq : s.seq = .idle) :
    ∃ t, exec i s = .next t ∧ t.busy = false ∧ t.seq = .idle ∧ Relation.ReflTransGen BusyTick (accept i s) t := by
  cases h : executedIn i s.st with
  | true =>
    obtain ⟨ack, u, evs, hd, hr, hx⟩ := runsAs_of_executedIn h
    obtain ⟨sb, sq, sr, -⟩ := (writeAtStart_frame i s).1
    obtain ⟨eb, eq, -⟩ := (writeAtEnd_frame i ack u).1
    have ub : u.busy = false := hr.busy.trans (sb.trans hbusy)
    have uq : u.seq = .idle := hr.seq.trans (sq.trans hseq)
    have ur : u.rst = false := hr.rst.trans (sr.trans hrst)
    obtain ⟨index, hrun⟩ := hd i 0 []
    have hlast := busyTick_inFlight ⟨i, index, [], ack⟩ u
    rw [advance_last i index ack u ub ur uq] at hlast
    rw [List.append_nil] at hrun
    rw [accept_eq_inFlight h hrst]
    exact ⟨writeAtEnd i ack u, hx, eb.trans ub, eq.trans uq, hrun.tail hlast⟩
  | false =>
    rw [accept_of_not_executedIn h]
    exact ⟨illegalResponse s, exec_of_not_executedIn h, hbusy, hseq, .refl⟩

/-- What an idle block does with the word on its port, in the one view and in the other. -/
theorem step_is_tick_and_busyTicks {s : State} {w : CmdWord} {rest : List CmdWord} (hrst : s.rst = false)
    (hbusy : s.busy = false) (hseq : s.seq = .idle) (hw : s.words = w :: rest) :
    ∃ t, step s = .next t ∧ t.busy = false ∧ t.seq = .idle ∧ Relation.ReflTransGen BusyTick (tick s) t := by
  cases hdec : decodeWord w with
  | ok i =>
    have hstep : step s = exec i { s with words := rest } := by simp [step, nextAction, hrst, hseq, hw, hdec]
    have htick : tick s = accept i { s with words := rest } := by simp [tick, acceptNext, hrst, hseq, hw, hdec]
    rw [hstep, htick]
    exact accept_busyTicks_exec i { s with words := rest } hrst hbusy hseq
  | error e =>
    have hstep : step s = .next (illegalResponse { s with words := rest }) := by
      simp [step, nextAction, hrst, hseq, hw, hdec]
    have htick : tick s = illegalResponse { s with words := rest } := by
      simp [tick, acceptNext, hrst, hseq, hw, hdec]
    rw [htick]
    exact ⟨_, hstep, hbusy, hseq, .refl⟩

/-- Settles O16: the first small step is the acceptance, and every further one is taken by a busy block. -/
theorem stepIsARunOfEvents : Obligations.StepIsARunOfEvents := by
  intro s w rest hrst hbusy hseq hw
  obtain ⟨t, hstep, tb, tq, hrun⟩ := step_is_tick_and_busyTicks hrst hbusy hseq hw
  obtain ⟨n, hn, hb⟩ := ticks_of_busyTicks hrun
  refine ⟨n + 1, t, n.succ_pos, hstep, hn, tb, tq, fun m h0 hm => ?_⟩
  obtain ⟨k, rfl⟩ := Nat.exists_eq_succ_of_ne_zero h0.ne'
  exact hb k (Nat.lt_of_succ_lt_succ hm)

end Sys2Proof.Proofs
end

section
/-! PROOFS. The family of 10_state.md: the invariant of R22 under both views of a step, the port (R12, R24), the façade's
state machine (R11), and what each command may write or depend on (R10, R13). The invariant rests on `GoesOn`, what one
small step inside a command can do, and on `KeepsDriven`, what every list of events does to the modes of the lines; a
step keeps the invariant because it is a run of small steps. -/

namespace Sys2Proof.Proofs

open Sys2Proof.Machine

/-! ### The fields of an encoded word (30_encoding.md R45, R46) -/

@[simp] theorem opField_wordOfFields (op : Byte) (a b : BitVec 16) : opField (wordOfFields op a b) = op :=
  (BitVec.extractLsb'_append_eq_of_le (xhi := op ++ a) (xlo := b) (by decide)).trans BitVec.extractLsb'_append_eq_left

@[simp] theorem aField_wordOfFields (op : Byte) (a b : BitVec 16) : aField (wordOfFields op a b) = a :=
  (BitVec.extractLsb'_append_eq_of_le (xhi := op ++ a) (xlo := b) (by decide)).trans BitVec.extractLsb'_append_eq_right

@[simp] theorem bField_wordOfFields (op : Byte) (a b : BitVec 16) : bField (wordOfFields op a b) = b :=
  BitVec.extractLsb'_append_eq_right

@[simp] theorem opField_wordOfCur (op : Byte) (cur : BitVec 32) : opField (wordOfCur op cur) = op :=
  BitVec.extractLsb'_append_eq_left

@[simp] theorem curField_wordOfCur (op : Byte) (cur : BitVec 32) : curField (wordOfCur op cur) = cur :=
  BitVec.extractLsb'_append_eq_right

/-- The fields of the `a` field of format X. -/
theorem aOfUnit_fields (width : Nat) (ack : Bool) (exp : Level) :
    (aOfUnit width ack exp)[8] = ack ∧ (aOfUnit width ack exp)[9] = exp ∧
    (aOfUnit width ack exp).extractLsb' 0 3 = BitVec.ofNat 3 (width - 1) ∧
    (aOfUnit width ack exp).extractLsb' 3 5 = 0 ∧ (aOfUnit width ack exp).extractLsb' 10 6 = 0 := by
  unfold aOfUnit
  generalize BitVec.ofNat 3 (width - 1) = k
  revert k ack exp
  decide

theorem aOfExp_fields (exp : Level) :
    (aOfExp exp)[9] = exp ∧ (aOfExp exp).extractLsb' 0 9 = 0 ∧ (aOfExp exp).extractLsb' 10 6 = 0 := by
  revert exp
  decide

theorem width_of_field {width : Nat} (h : widthOk width = true) : (BitVec.ofNat 3 (width - 1)).toNat + 1 = width := by
  obtain ⟨h1, h8⟩ : 1 ≤ width ∧ width ≤ 8 := by simpa [widthOk] using h
  rw [BitVec.toNat_ofNat, Nat.mod_eq_of_lt (by omega)]
  omega

/-- Format X reads back the two forms of a unit (30_encoding.md R47, R49). -/
theorem decodeWord_unit (data : Byte) {width : Nat} (ack : Bool) (exp : Level) (h : widthOk width = true)
    (hexp : (ack || !exp) = true) :
    decodeWord (wordOfFields 0x12 (aOfUnit width ack exp) (0#8 ++ data)) =
      .ok (if ack then .xferAck data width exp else .xferNoack data width) := by
  obtain ⟨hack, hlevel, hwidth, hz3, hz10⟩ := aOfUnit_fields width ack exp
  have hdata : (0#8 ++ data : BitVec 16).extractLsb' 0 8 = data := BitVec.extractLsb'_append_eq_right
  have hz8 : (0#8 ++ data : BitVec 16).extractLsb' 8 8 = 0 := BitVec.extractLsb'_append_eq_left
  simp [decodeWord, ifZero, zeroOkX, ackField, expField, widthField, dataField, hack, hlevel, hwidth, hz3, hz10, hdata,
    hz8, hexp, width_of_field h, -BitVec.toNat_ofNat]

/-- The word of a command that can be encoded decodes to the command (30_encoding.md R45 to R48). -/
theorem decodeWord_encode {i : Instr} (h : i.WellFormed) : decodeWord (encode i) = .ok i := by
  cases i with
  | xferAck data width exp => exact decodeWord_unit data true exp h rfl
  | xferNoack data width => exact decodeWord_unit data false false h rfl
  | ackrd exp =>
    obtain ⟨hlevel, hz0, hz10⟩ := aOfExp_fields exp
    simp [encode, decodeWord, ifZero, zeroOkA, expField, hlevel, hz0, hz10]
  | init | setcal | wrcur | cvti2c => simp [encode, decodeWord]
  | wrcode | cvtc2i => simp [encode, decodeWord, ifZero, zeroOkC]
  | persist | start | stop => simp [encode, decodeWord, ifZero, zeroOkZ]

/-! ### Which step is taken (10_state.md R12, R24) -/

theorem step_of_command {s : State} {w : CmdWord} {rest : List CmdWord} {i : Instr} (hrst : s.rst = false)
    (hseq : s.seq = .idle) (hwords : s.words = w :: rest) (hdec : decodeWord w = .ok i) :
    step s = exec i { s with words := rest } := by
  simp [step, nextAction, hrst, hseq, hwords, hdec]

theorem step_of_illegal {s : State} {w : CmdWord} {rest : List CmdWord} {e : DecodeError} (hrst : s.rst = false)
    (hseq : s.seq = .idle) (hwords : s.words = w :: rest) (hdec : decodeWord w = .error e) :
    step s = .next (illegalResponse { s with words := rest }) := by
  simp [step, nextAction, hrst, hseq, hwords, hdec]

theorem step_of_no_word {s : State} (hrst : s.rst = false) (hseq : s.seq = .idle) (hwords : s.words = []) :
    step s = .next s := by
  simp [step, nextAction, hrst, hseq, hwords]

theorem step_of_running {s : State} {f : Flight} (hrst : s.rst = false) (hseq : s.seq = .running f) :
    step s = .next (finish f s) := by
  simp [step, nextAction, hrst, hseq]

theorem step_of_rst {s : State} (hrst : s.rst = true) : step s = .next (holdReset s) := by
  simp [step, nextAction, hrst]

theorem tick_of_running {s : State} {f : Flight} (hrst : s.rst = false) (hseq : s.seq = .running f) :
    tick s = advance f s := by
  simp [tick, hrst, hseq]

theorem tick_of_idle {s : State} (hrst : s.rst = false) (hseq : s.seq = .idle) : tick s = acceptNext s := by
  simp [tick, hrst, hseq]

theorem tick_of_rst {s : State} (hrst : s.rst = true) : tick s = holdReset s := by
  simp [tick, hrst]

/-- What every step of a command in flight keeps holds when the command has ended. -/
theorem finish_keeps {P : State → Prop} (hP : ∀ f s, s.seq = .running f → P s → P (advance f s)) (f : Flight)
    {s : State} (hs : P s) : P (finish f s) := by
  unfold finish
  generalize opsCost s.params f.todo = n
  induction n generalizing s with
  | zero => exact hs
  | succ n ih =>
    rw [advances]
    split
    · next g hseq => exact ih (hP g s hseq hs)
    · exact hs

/-- Settles O6: with a word of a command on the port of an idle block, the next action is that command. -/
theorem stepRunsTheCommandOnThePort : Obligations.StepRunsTheCommandOnThePort :=
  fun _ _ _ _ => step_of_command

/-- Settles O7: the placed word decodes to the command, and with the word gone the port is as it was. -/
theorem placedCommandRunsNext : Obligations.PlacedCommandRunsNext := by
  intro s i h
  have hw : BitVec.ofNat 40 ((encode i).toNat % 2 ^ 40) = encode i := by
    rw [Nat.mod_eq_of_lt (encode i).isLt, BitVec.ofNat_toNat, BitVec.setWidth_eq]
  rw [State.withFetchWord, hw]
  exact step_of_command rfl rfl rfl (decodeWord_encode h)

/-! ### The writes of a command outside its events (10_state.md R10) -/

theorem writeAtStart_st (i : Instr) (s : State) : (writeAtStart i s).st = s.st := by
  cases i with
  | init a b => by_cases h : pinsOk s.params a b <;> simp [writeAtStart, h]
  | wrcode code => by_cases h : codeOk code <;> simp [writeAtStart, h]
  | _ => rfl

theorem writeAtStart_cal (i : Instr) (s : State) : SameCal s (writeAtStart i s) := by
  cases i with
  | init a b => by_cases h : pinsOk s.params a b <;> simp [SameCal, writeAtStart, h]
  | wrcode code => by_cases h : codeOk code <;> simp [SameCal, writeAtStart, h]
  | _ => exact ⟨rfl, rfl, rfl⟩

theorem writeAtStart_lastCode {i : Instr} (s : State) (hcode : ∀ c, i ≠ .wrcode c) (hcur : ∀ c, i ≠ .wrcur c) :
    (writeAtStart i s).lastCode = s.lastCode := by
  cases i with
  | wrcode c => exact absurd rfl (hcode c)
  | wrcur c => exact absurd rfl (hcur c)
  | init a b => by_cases h : pinsOk s.params a b <;> simp [writeAtStart, h]
  | _ => rfl

theorem writeAtStart_pins {i : Instr} (s : State) (hi : ∀ a b, i ≠ .init a b) :
    (writeAtStart i s).pinScl = s.pinScl ∧ (writeAtStart i s).pinSda = s.pinSda := by
  cases i with
  | init a b => exact absurd rfl (hi a b)
  | wrcode code => by_cases h : codeOk code <;> simp [writeAtStart, h]
  | _ => exact ⟨rfl, rfl⟩

/-- The last writes reach neither the pin identifiers nor `last_code`. -/
theorem writeAtEnd_keeps (i : Instr) (ack : Level) (s : State) :
    (writeAtEnd i ack s).pinScl = s.pinScl ∧ (writeAtEnd i ack s).pinSda = s.pinSda ∧
    (writeAtEnd i ack s).lastCode = s.lastCode := by
  cases i with
  | init a b =>
    by_cases h : pinsOk s.params a b <;> by_cases h' : ack = s.params.ackLevel <;>
      simp [writeAtEnd, presenceResult, h, h']
  | setcal lo hi => by_cases h : calOk lo hi <;> simp [writeAtEnd, h]
  | _ => exact ⟨rfl, rfl, rfl⟩

/-- `st` is written at the end of an INIT whose checks succeed, and by no other last write. -/
theorem writeAtEnd_st (i : Instr) (ack : Level) (s : State) :
    (writeAtEnd i ack s).st = s.st ∨
      ∃ a b, i = .init a b ∧ pinsOk s.params a b = true ∧ (writeAtEnd i ack s).st = .ready := by
  cases i with
  | init a b =>
    by_cases h : pinsOk s.params a b
    · by_cases h' : ack = s.params.ackLevel
      · exact .inr ⟨a, b, rfl, h, by simp [writeAtEnd, presenceResult, h, h']⟩
      · exact .inl (by simp [writeAtEnd, presenceResult, h, h'])
    · exact .inl (by simp [writeAtEnd, h])
  | setcal lo hi => by_cases h : calOk lo hi <;> simp [writeAtEnd, h]
  | _ => exact .inl rfl

/-- The calibration is written at the end of a SETCAL of an accepted pair, and by no other last write. -/
theorem writeAtEnd_cal (i : Instr) (ack : Level) (s : State) :
    SameCal s (writeAtEnd i ack s) ∨
      ∃ lo hi, i = .setcal lo hi ∧ calOk lo hi = true ∧ (writeAtEnd i ack s).calEn = true ∧
        (writeAtEnd i ack s).calLo = low12 lo ∧ (writeAtEnd i ack s).calHi = low12 hi := by
  cases i with
  | init a b =>
    by_cases h : pinsOk s.params a b <;> by_cases h' : ack = s.params.ackLevel <;>
      simp [SameCal, writeAtEnd, presenceResult, h, h']
  | setcal lo hi =>
    by_cases h : calOk lo hi
    · exact .inr ⟨lo, hi, rfl, h, by simp [writeAtEnd, h]⟩
    · exact .inl (by simp [SameCal, writeAtEnd, h])
  | _ => exact .inl ⟨rfl, rfl, rfl⟩

/-! ### One small step of a command in flight (10_state.md R21) -/

/-- The step stays inside the command: `u` is `s` after at most one event, and the flight `g` that is left has nothing
to emit that `f` had not. -/
structure GoesOn (f : Flight) (s : State) (g : Flight) (u : State) : Prop where
  runs : ∃ evs, Runs s u evs
  cmd : g.cmd = f.cmd
  emits : ∀ e, .emit e ∈ g.todo → .emit e ∈ f.todo
  sclMode : modeAfter .scl g.todo u.sclMode = modeAfter .scl f.todo s.sclMode
  sdaMode : modeAfter .sda g.todo u.sdaMode = modeAfter .sda f.todo s.sdaMode
  clock : .emit (.mode .scl .inPu) ∉ f.todo → s.sclMode = .out → u.sclMode = .out

/-- A step that writes no mode, and leaves a list with the mode events of the list before. -/
theorem GoesOn.of_no_mode {f g : Flight} {s u : State} (runs : ∃ evs, Runs s u evs) (cmd : g.cmd = f.cmd)
    (emits : ∀ e, .emit e ∈ g.todo → .emit e ∈ f.todo) (hscl : u.sclMode = s.sclMode) (hsda : u.sdaMode = s.sdaMode)
    (modes : ∀ line m, modeAfter line g.todo m = modeAfter line f.todo m) : GoesOn f s g u where
  runs := runs
  cmd := cmd
  emits := emits
  sclMode := by rw [hscl, modes]
  sdaMode := by rw [hsda, modes]
  clock := fun _ h => hscl.trans h

theorem runs_emitEvent (e : Event) (s : State) : ∃ evs, Runs s (emitEvent e s) evs := by
  cases e with
  | mode line m => exact ⟨_, runs_setMode line m s⟩
  | drive line v => exact ⟨_, runs_drive line v s⟩
  | sample line v => exact ⟨_, Runs.refl s⟩
  | waitUs n => exact ⟨_, runs_hold (.fixed n) s⟩
  | waitMs n => exact ⟨_, runs_waitMs n s⟩

theorem modeAfter_emitEvent (e : Event) (rest : List MicroOp) (s : State) :
    modeAfter .scl rest (emitEvent e s).sclMode = modeAfter .scl (.emit e :: rest) s.sclMode ∧
    modeAfter .sda rest (emitEvent e s).sdaMode = modeAfter .sda (.emit e :: rest) s.sdaMode := by
  cases e with
  | mode line m => cases line <;> exact ⟨rfl, rfl⟩
  | drive line v => cases line <;> exact ⟨rfl, rfl⟩
  | sample | waitUs | waitMs => exact ⟨rfl, rfl⟩

/-- Only the event that releases the clock line takes it out of output mode. -/
theorem emitEvent_clock {e : Event} {s : State} (he : e ≠ .mode .scl .inPu) (h : s.sclMode = .out) :
    (emitEvent e s).sclMode = .out := by
  cases e with
  | mode line m =>
    cases line with
    | scl =>
      cases m with
      | inPu => exact absurd rfl he
      | out => rfl
    | sda => exact h
  | drive line v => cases line <;> exact h
  | sample | waitUs | waitMs => exact h

theorem advance_of_nil {f : Flight} (h : f.todo = []) (s : State) :
    advance f s = { writeAtEnd f.cmd f.ack s with busy := false, seq := .idle } := by
  simp [advance, h]

theorem advance_of_cons {f : Flight} {op : MicroOp} {rest : List MicroOp} (h : f.todo = op :: rest) (s : State) :
    ∃ g u, advance f s = { u with seq := .running g } ∧ GoesOn f s g u := by
  obtain ⟨cmd, index, todo, ack⟩ := f
  obtain rfl : todo = op :: rest := h
  cases op with
  | emit e =>
    obtain ⟨hscl, hsda⟩ := modeAfter_emitEvent e rest s
    exact ⟨_, emitEvent e s, rfl, runs_emitEvent e s, rfl, fun _ => List.mem_cons_of_mem _, hscl, hsda,
      fun hm => emitEvent_clock fun he => hm (he ▸ List.mem_cons_self)⟩
  | clearPoll =>
    exact ⟨_, { s with pollCnt := 0 }, rfl, .of_no_mode ⟨_, (Runs.refl s).setPollCnt 0⟩ rfl
      (fun _ => List.mem_cons_of_mem _) rfl rfl fun _ _ => rfl⟩
  | poll exp =>
    have sample := runs_sampleSda s
    by_cases hlt : s.pollCnt < s.params.ackPollMax
    · by_cases hm : nextLevel s = exp
      · exact ⟨_, sampleSda s, (if_pos hlt).trans (if_pos hm), .of_no_mode ⟨_, sample⟩ rfl
          (fun _ => List.mem_cons_of_mem _) rfl rfl fun _ _ => rfl⟩
      · exact ⟨_, sampleSda s, (if_pos hlt).trans (if_neg hm), .of_no_mode ⟨_, sample⟩ rfl
          (fun e he => by simpa using he) rfl rfl fun _ _ => rfl⟩
    · exact ⟨_, s, if_neg hlt, .of_no_mode ⟨_, Runs.refl s⟩ rfl
        (fun _ => List.mem_cons_of_mem _) rfl rfl fun _ _ => rfl⟩
  | pollWait exp =>
    exact ⟨_, { hold s.params.holds.poll s with pollCnt := s.pollCnt + 1 }, rfl,
      .of_no_mode ⟨_, (runs_hold s.params.holds.poll s).setPollCnt _⟩ rfl
        (fun e he => by simpa using he) rfl rfl fun _ _ => rfl⟩
  | finalSample =>
    exact ⟨_, sampleSda s, rfl, .of_no_mode ⟨_, runs_sampleSda s⟩ rfl
      (fun _ => List.mem_cons_of_mem _) rfl rfl fun _ _ => rfl⟩

theorem advance_words (f : Flight) (s : State) : (advance f s).words = s.words := by
  cases h : f.todo with
  | nil =>
    obtain ⟨-, -, -, hw, -⟩ := (writeAtEnd_frame f.cmd f.ack s).1
    rw [advance_of_nil h, hw]
  | cons op rest =>
    obtain ⟨g, u, ha, hg⟩ := advance_of_cons h s
    obtain ⟨evs, hr⟩ := hg.runs
    rw [ha, hr.words]

/-- Settles O13: no small step of a command in flight touches the port, so neither does the step that ends it. -/
theorem busyBlockAcceptsNoWord : Obligations.BusyBlockAcceptsNoWord := by
  intro s f hrst hseq
  refine ⟨?_, finish f s, step_of_running hrst hseq, ?_⟩
  · rw [tick_of_running hrst hseq, advance_words]
  · exact finish_keeps (P := fun t => t.words = s.words) (fun g t _ h => (advance_words g t).trans h) f rfl

/-! ### The mode of a line along a list (10_state.md R14, R15) -/

theorem modeAfter_append (line : Line) (xs ys : List MicroOp) (m : LineMode) :
    modeAfter line (xs ++ ys) m = modeAfter line ys (modeAfter line xs m) := by
  induction xs generalizing m with
  | nil => rfl
  | cons op xs ih =>
    cases op with
    | emit e => cases e <;> exact ih _
    | clearPoll | poll | pollWait | finalSample => exact ih _

/-- A list that does not release the clock line and, with both lines driven before it, leaves them driven. -/
structure KeepsDriven (ops : List MicroOp) : Prop where
  clock : .emit (.mode .scl .inPu) ∉ ops
  modes : ∀ line, modeAfter line ops .out = .out

theorem KeepsDriven.nil : KeepsDriven [] := ⟨List.not_mem_nil, fun _ => rfl⟩

theorem KeepsDriven.append {xs ys : List MicroOp} (hx : KeepsDriven xs) (hy : KeepsDriven ys) :
    KeepsDriven (xs ++ ys) where
  clock := fun h => (List.mem_append.mp h).elim hx.clock hy.clock
  modes := fun line => by rw [modeAfter_append, hx.modes, hy.modes]

theorem KeepsDriven.flatMap {α : Type} {ops : α → List MicroOp} (h : ∀ x, KeepsDriven (ops x)) (xs : List α) :
    KeepsDriven (xs.flatMap ops) := by
  induction xs with
  | nil => exact .nil
  | cons x xs ih => exact (h x).append ih

theorem startOps_keepsDriven (p : Params) : KeepsDriven (startOps p) :=
  ⟨by simp [startOps, holdOp], fun _ => rfl⟩

theorem stopOps_keepsDriven (p : Params) : KeepsDriven (stopOps p) :=
  ⟨by simp [stopOps, holdOp], fun _ => rfl⟩

theorem bitOps_keepsDriven (p : Params) (v : Level) : KeepsDriven (bitOps p v) :=
  ⟨by simp [bitOps, holdOp], fun _ => rfl⟩

theorem tailOps_keepsDriven (p : Params) : KeepsDriven (tailOps p) :=
  ⟨by simp [tailOps], fun _ => rfl⟩

/-- The acknowledgment read releases the data line and drives it again (40_bus_primitives.md R74, R78). -/
theorem ackOps_keepsDriven (p : Params) (exp : Level) : KeepsDriven (ackOps p exp) :=
  ⟨by simp [ackOps, holdOp], fun line => by cases line <;> rfl⟩

theorem unitAckOps_keepsDriven (p : Params) (data : Byte) (n : Nat) (exp : Level) :
    KeepsDriven (unitAckOps p data n exp) :=
  (KeepsDriven.flatMap (bitOps_keepsDriven p) _).append (ackOps_keepsDriven p exp)

theorem unitNoackOps_keepsDriven (p : Params) (data : Byte) (n : Nat) : KeepsDriven (unitNoackOps p data n) :=
  (KeepsDriven.flatMap (bitOps_keepsDriven p) _).append (tailOps_keepsDriven p)

theorem bytesFrameOps_keepsDriven (p : Params) (vs : List Byte) (exp : Level) : KeepsDriven (bytesFrameOps p vs exp) :=
  ((startOps_keepsDriven p).append (.flatMap (fun v => unitAckOps_keepsDriven p v 8 exp) vs)).append
    (stopOps_keepsDriven p)

theorem writeFrameOps_keepsDriven (p : Params) (c : BitVec 12) : KeepsDriven (writeFrameOps p c) :=
  bytesFrameOps_keepsDriven p _ _

theorem headerFrameOps_keepsDriven (p : Params) : KeepsDriven (headerFrameOps p) :=
  ((startOps_keepsDriven p).append (unitNoackOps_keepsDriven p _ _)).append (stopOps_keepsDriven p)

theorem persistOps_keepsDriven (p : Params) : KeepsDriven (persistOps p) :=
  have header := headerFrameOps_keepsDriven p
  have wait : KeepsDriven [.emit (.waitMs p.tCommitMs)] := ⟨by simp, fun _ => rfl⟩
  ((((header.append (bytesFrameOps_keepsDriven p _ _)).append (bytesFrameOps_keepsDriven p _ _)).append wait).append
    header).append (bytesFrameOps_keepsDriven p _ _)

/-- INIT drives both lines whatever their modes were (42_device_commands.md R103). -/
theorem modeAfter_presenceOps (line : Line) (p : Params) (m : LineMode) : modeAfter line (presenceOps p) m = .out := by
  have frame := (bytesFrameOps_keepsDriven p [addrByte p] p.ackLevel).modes line
  rw [presenceOps, modeAfter_append]
  cases line <;> exact frame

theorem presenceOps_keepsDriven (p : Params) : KeepsDriven (presenceOps p) :=
  ⟨by simpa [presenceOps] using (bytesFrameOps_keepsDriven p [addrByte p] p.ackLevel).clock,
    fun line => modeAfter_presenceOps line p .out⟩

theorem commandOps_keepsDriven (i : Instr) (s : State) : KeepsDriven (commandOps i s) := by
  cases i with
  | init a b =>
    by_cases h : pinsOk s.params a b
    · simpa [commandOps, h] using presenceOps_keepsDriven s.params
    · simpa [commandOps, h] using KeepsDriven.nil
  | wrcode code =>
    by_cases h : codeOk code
    · simpa [commandOps, h] using writeFrameOps_keepsDriven s.params (low12 code)
    · simpa [commandOps, h] using KeepsDriven.nil
  | wrcur cur => exact writeFrameOps_keepsDriven s.params _
  | persist => exact persistOps_keepsDriven s.params
  | setcal | cvtc2i | cvti2c => exact .nil
  | start => exact startOps_keepsDriven s.params
  | stop => exact stopOps_keepsDriven s.params
  | xferAck data n exp => exact unitAckOps_keepsDriven s.params data n exp
  | xferNoack data n => exact unitNoackOps_keepsDriven s.params data n
  | ackrd exp => exact ackOps_keepsDriven s.params exp

/-! ### The invariant (10_state.md R22) -/

theorem flightSound_iff (s : State) (f : Flight) :
    FlightSound s f ↔
      .emit (.mode .scl .inPu) ∉ f.todo ∧ (s.st = .ready → modeAfter .sda f.todo s.sdaMode = .out) ∧
      ∀ a b, f.cmd = .init a b →
        s.st = .uninit ∧ (pinsOk s.params a b = true →
          s.pinScl = a ∧ s.pinSda = b ∧ modeAfter .scl f.todo s.sclMode = .out ∧
          modeAfter .sda f.todo s.sdaMode = .out) := by
  have hmem : (∀ op ∈ f.todo, op ≠ .emit (.mode .scl .inPu)) ↔ .emit (.mode .scl .inPu) ∉ f.todo :=
    ⟨fun h hm => h _ hm rfl, fun h op hop he => h (he ▸ hop)⟩
  rw [FlightSound, hmem]
  cases f.cmd <;> simp

/-- The invariant is about the elements of the state vector that reset writes and about the parameters. -/
theorem inv_holdReset (s : State) : Inv (holdReset s) where
  cal := nofun
  bound := nofun
  driven := nofun
  busySeq := ⟨fun _ => rfl, fun _ => rfl⟩
  flight := nofun

/-- The result is no part of the invariant. -/
theorem inv_setRes {s : State} (h : Inv s) (v : BitVec 32) : Inv (setRes v s) :=
  ⟨h.cal, h.bound, h.driven, h.busySeq, h.flight⟩

/-- Neither is the port. -/
theorem inv_setWords {s : State} (h : Inv s) (ws : List CmdWord) : Inv { s with words := ws } :=
  ⟨h.cal, h.bound, h.driven, h.busySeq, h.flight⟩

theorem busy_of_running {s : State} {f : Flight} (h : Inv s) (hseq : s.seq = .running f) : s.busy = true := by
  cases hb : s.busy with
  | true => rfl
  | false => cases hseq.symm.trans (h.busySeq.mp hb)

/-- An accepted pair of calibration codes is ordered and in range (42_device_commands.md R104). -/
theorem calOrdered_writeAtEnd (i : Instr) (ack : Level) {s : State} (h : CalOrdered s) :
    CalOrdered (writeAtEnd i ack s) := by
  rcases writeAtEnd_cal i ack s with ⟨hen, hlo, hhi⟩ | ⟨lo, hi, -, hok, -, hlo, hhi⟩
  · simpa [CalOrdered, hen, hlo, hhi] using h
  · obtain ⟨hlt, hle⟩ := (calOk_iff lo hi).mp hok
    intro _
    rw [hlo, hhi, low12_toNat, low12_toNat, Nat.mod_eq_of_lt (by omega), Nat.mod_eq_of_lt (by omega)]
    exact ⟨hlt, hle⟩

theorem inv_accept {i : Instr} {s : State} (hs : Inv s) (hseq : s.seq = .idle) : Inv (accept i s) := by
  cases h : executedIn i s.st with
  | false =>
    rw [accept_of_not_executedIn h]
    exact inv_setRes hs _
  | true =>
    have hst := writeAtStart_st i s
    have hops := commandOps_keepsDriven i s
    obtain ⟨hen, hlo, hhi⟩ := writeAtStart_cal i s
    obtain ⟨-, -, -, -, hp⟩ := (writeAtStart_frame i s).1
    obtain ⟨hscl, -, hsda, -⟩ := (writeAtStart_frame i s).2
    have hacc : accept i s = { writeAtStart i s with busy := true, seq := .running ⟨i, 0, commandOps i s, false⟩ } := by
      simp [accept, h]
    rw [hacc]
    refine ⟨?_, fun hr => ?_, nofun, ⟨nofun, nofun⟩, fun f hf => ?_⟩
    · simpa [CalOrdered, hen, hlo, hhi] using hs.cal
    · have hr' : s.st = .ready := hst.symm.trans hr
      have hinit : ∀ a b, i ≠ .init a b := fun a b he => by simp [he, executedIn, hr'] at h
      obtain ⟨hps, hpd⟩ := writeAtStart_pins s hinit
      simpa [hps, hpd, hp, hscl] using hs.bound hr'
    · obtain rfl : _ = f := by simpa using hf
      refine (flightSound_iff _ _).mpr ⟨hops.clock, fun hr => ?_, fun a b he => ?_⟩
      · have hout := hs.driven (hs.busySeq.mpr hseq) (hst.symm.trans hr)
        simpa [hsda, hout] using hops.modes .sda
      · obtain rfl : i = .init a b := he
        refine ⟨hst.trans (of_decide_eq_true h), fun hok => ?_⟩
        replace hok : pinsOk s.params a b = true := by rwa [← hp]
        simp [writeAtStart, commandOps, hok, modeAfter_presenceOps]

theorem inv_of_goesOn {f g : Flight} {s u : State} (hs : Inv s) (hf : s.seq = .running f) (h : GoesOn f s g u) :
    Inv { u with seq := .running g } := by
  obtain ⟨evs, hr⟩ := h.runs
  obtain ⟨hclock, hsda, hinit⟩ := (flightSound_iff s f).mp (hs.flight f hf)
  have hbusy : u.busy = true := hr.busy.trans (busy_of_running hs hf)
  refine ⟨?_, fun hst => ?_, fun hb => ?_, ⟨fun hb => ?_, nofun⟩, fun f' hf' => ?_⟩
  · simpa [CalOrdered, hr.calEn, hr.calLo, hr.calHi] using hs.cal
  · obtain ⟨h1, h2, h3⟩ := hs.bound (hr.st.symm.trans hst)
    exact ⟨by simpa [hr.params, hr.pinScl] using h1, by simpa [hr.params, hr.pinSda] using h2, h.clock hclock h3⟩
  · cases hbusy.symm.trans hb
  · cases hbusy.symm.trans hb
  · obtain rfl : g = f' := by simpa using hf'
    refine (flightSound_iff _ _).mpr ⟨fun hm => hclock (h.emits _ hm), fun hst => ?_, fun a b he => ?_⟩
    · exact h.sdaMode.trans (hsda (hr.st.symm.trans hst))
    · obtain ⟨hst, hpins⟩ := hinit a b (h.cmd.symm.trans he)
      simpa [hr.st, hst, hr.params, hr.pinScl, hr.pinSda, h.sclMode, h.sdaMode] using hpins

theorem inv_of_end {f : Flight} {s : State} (hs : Inv s) (hf : s.seq = .running f) (hnil : f.todo = []) :
    Inv { writeAtEnd f.cmd f.ack s with busy := false, seq := .idle } := by
  obtain ⟨-, hsda, hinit⟩ := (flightSound_iff s f).mp (hs.flight f hf)
  rw [hnil] at hsda hinit
  obtain ⟨hps, hpd, -⟩ := writeAtEnd_keeps f.cmd f.ack s
  obtain ⟨-, -, -, -, hp⟩ := (writeAtEnd_frame f.cmd f.ack s).1
  obtain ⟨hscl, -, hsdam, -⟩ := (writeAtEnd_frame f.cmd f.ack s).2
  have hready : (writeAtEnd f.cmd f.ack s).st = .ready →
      (pinOk s.params.pinValid s.pinScl = true ∧ pinOk s.params.pinValid s.pinSda = true ∧ s.sclMode = .out) ∧
      s.sdaMode = .out := by
    intro hst
    rcases writeAtEnd_st f.cmd f.ack s with h | ⟨a, b, hcmd, hok, -⟩
    · exact ⟨hs.bound (h.symm.trans hst), hsda (h.symm.trans hst)⟩
    · obtain ⟨rfl, rfl, hscl, hsda⟩ := (hinit a b hcmd).2 hok
      obtain ⟨h1, h2⟩ := (pinsOk_iff _ _ _).mp hok
      exact ⟨⟨h1, h2, hscl⟩, hsda⟩
  refine ⟨calOrdered_writeAtEnd f.cmd f.ack hs.cal, fun hst => ?_, fun _ hst => ?_,
    ⟨fun _ => rfl, fun _ => rfl⟩, nofun⟩
  · simpa [hps, hpd, hp, hscl] using (hready hst).1
  · simpa [hsdam] using (hready hst).2

theorem inv_advance (f : Flight) (s : State) (hf : s.seq = .running f) (hs : Inv s) : Inv (advance f s) := by
  cases h : f.todo with
  | nil =>
    rw [advance_of_nil h]
    exact inv_of_end hs hf h
  | cons op rest =>
    obtain ⟨g, u, ha, hg⟩ := advance_of_cons h s
    rw [ha]
    exact inv_of_goesOn hs hf hg

theorem inv_acceptNext {s : State} (hs : Inv s) (hseq : s.seq = .idle) : Inv (acceptNext s) := by
  unfold acceptNext
  split
  · exact hs
  · next w rest _ =>
    split
    · exact inv_accept (inv_setWords hs rest) hseq
    · exact inv_setRes (inv_setWords hs rest) _

/-- Settles O19: a small step is reset, an acceptance, an event, or the last writes of a command. -/
theorem tickKeepsTheInvariant : Obligations.TickKeepsTheInvariant := by
  intro s hs
  cases hrst : s.rst with
  | true =>
    rw [tick_of_rst hrst]
    exact inv_holdReset s
  | false =>
    cases hseq : s.seq with
    | running f =>
      rw [tick_of_running hrst hseq]
      exact inv_advance f s hseq hs
    | idle =>
      rw [tick_of_idle hrst hseq]
      exact inv_acceptNext hs hseq

theorem inv_of_busyTicks {s t : State} (h : Relation.ReflTransGen BusyTick s t) (hs : Inv s) : Inv t := by
  induction h with
  | refl => exact hs
  | tail _ hlast ih =>
    obtain ⟨-, rfl⟩ := hlast
    exact tickKeepsTheInvariant _ ih

/-- Settles O18: the step of a command is a run of small steps, and so is the end of a command in flight. -/
theorem stepKeepsTheInvariant : Obligations.StepKeepsTheInvariant := by
  intro s t hs ht
  cases hrst : s.rst with
  | true =>
    obtain rfl : holdReset s = t := by simpa [step_of_rst hrst] using ht
    exact inv_holdReset s
  | false =>
    cases hseq : s.seq with
    | running f =>
      obtain rfl : finish f s = t := by simpa [step_of_running hrst hseq] using ht
      exact finish_keeps inv_advance f hs
    | idle =>
      cases hw : s.words with
      | nil =>
        obtain rfl : s = t := by simpa [step_of_no_word hrst hseq hw] using ht
        exact hs
      | cons w rest =>
        obtain ⟨u, hu, -, -, hrun⟩ := step_is_tick_and_busyTicks hrst (hs.busySeq.mpr hseq) hseq hw
        obtain rfl : u = t := by simpa [hu] using ht
        exact inv_of_busyTicks hrun (tickKeepsTheInvariant s hs)

/-- Settles O17: a state fresh from reset, whatever is lined up outside, is one that reset is held in. -/
theorem resetMeetsTheInvariant : Obligations.ResetMeetsTheInvariant :=
  fun p ws ls n => inv_holdReset { State.reset with params := p, words := ws, levels := ls, draws := n }

/-- Settles O12: the model's reset state is the reset column, element by element. -/
theorem resetStateHoldsTheResetColumn : Obligations.ResetStateHoldsTheResetColumn :=
  ⟨rfl, rfl, rfl, rfl, rfl, rfl, rfl, rfl, rfl, rfl, rfl, rfl, rfl, rfl, rfl⟩

/-! ### What exec can do (10_state.md R10) -/

theorem exec_total (i : Instr) (s : State) : ∃ t, exec i s = .next t := by
  cases h : executedIn i s.st with
  | true =>
    obtain ⟨ack, u, evs, -, -, hx⟩ := runsAs_of_executedIn h
    exact ⟨_, hx⟩
  | false => exact ⟨_, exec_of_not_executedIn h⟩

/-- The next state is that after the command's first writes, a run of events and its last writes, or the ILLEGAL
response. -/
theorem exec_cases {i : Instr} {s t : State} (h : exec i s = .next t) :
    (∃ ack u evs, Runs (writeAtStart i s) u evs ∧ t = writeAtEnd i ack u) ∨ t = illegalResponse s := by
  cases he : executedIn i s.st with
  | true =>
    obtain ⟨ack, u, evs, -, hr, hx⟩ := runsAs_of_executedIn he
    exact .inl ⟨ack, u, evs, hr, by simpa [hx] using h.symm⟩
  | false => exact .inr (by simpa [exec_of_not_executedIn he] using h.symm)

theorem exec_sameControl {i : Instr} {s t : State} (h : exec i s = .next t) : SameControl s t := by
  rcases exec_cases h with ⟨ack, u, evs, hr, rfl⟩ | rfl
  · obtain ⟨sb, sq, sr, sw, sp⟩ := (writeAtStart_frame i s).1
    obtain ⟨eb, eq, er, ew, ep⟩ := (writeAtEnd_frame i ack u).1
    exact ⟨eb.trans (hr.busy.trans sb), eq.trans (hr.seq.trans sq), er.trans (hr.rst.trans sr),
      ew.trans (hr.words.trans sw), ep.trans (hr.params.trans sp)⟩
  · exact ⟨rfl, rfl, rfl, rfl, rfl⟩

/-- `st` is written by INIT only, and then it is READY. -/
theorem exec_st {i : Instr} {s t : State} (h : exec i s = .next t) :
    t.st = s.st ∨ (∃ a b, i = .init a b) ∧ t.st = .ready := by
  rcases exec_cases h with ⟨ack, u, evs, hr, rfl⟩ | rfl
  · rcases writeAtEnd_st i ack u with he | ⟨a, b, hi, -, he⟩
    · exact .inl (he.trans (hr.st.trans (writeAtStart_st i s)))
    · exact .inr ⟨⟨a, b, hi⟩, he⟩
  · exact .inl rfl

/-- The calibration is written by SETCAL only, which turns it on. -/
theorem exec_cal {i : Instr} {s t : State} (h : exec i s = .next t) :
    SameCal s t ∨ (∃ lo hi, i = .setcal lo hi) ∧ t.calEn = true := by
  rcases exec_cases h with ⟨ack, u, evs, hr, rfl⟩ | rfl
  · obtain ⟨sen, slo, shi⟩ := writeAtStart_cal i s
    rcases writeAtEnd_cal i ack u with ⟨een, elo, ehi⟩ | ⟨lo, hi, hi', -, hen, -⟩
    · exact .inl ⟨een.trans (hr.calEn.trans sen), elo.trans (hr.calLo.trans slo), ehi.trans (hr.calHi.trans shi)⟩
    · exact .inr ⟨⟨lo, hi, hi'⟩, hen⟩
  · exact .inl ⟨rfl, rfl, rfl⟩

theorem exec_lastCode {i : Instr} {s t : State} (h : exec i s = .next t) (hcode : ∀ c, i ≠ .wrcode c)
    (hcur : ∀ c, i ≠ .wrcur c) : t.lastCode = s.lastCode := by
  rcases exec_cases h with ⟨ack, u, evs, hr, rfl⟩ | rfl
  · obtain ⟨-, -, he⟩ := writeAtEnd_keeps i ack u
    exact he.trans (hr.lastCode.trans (writeAtStart_lastCode s hcode hcur))
  · rfl

/-- A command that is nothing but its last writes. -/
theorem noEvent_of_writeAtEnd {i : Instr} {ack : Level} {s t : State} (hx : exec i s = .next (writeAtEnd i ack s))
    (h : exec i s = .next t) : NoEvent s t := by
  obtain rfl : writeAtEnd i ack s = t := by simpa [hx] using h
  exact (writeAtEnd_frame i ack s).2

/-! ### The binding: pin identifiers and clock direction (10_state.md R13, R14) -/

/-- The state with another binding. Below: the bus primitives neither read nor write it, so that they commute with
putting another one in its place. -/
def rebind (a b : BitVec 16) (m : LineMode) (s : State) : State := { s with pinScl := a, pinSda := b, sclMode := m }

section
variable (a b : BitVec 16) (m : LineMode) (s : State)

theorem setRes_rebind (v : BitVec 32) : setRes v (rebind a b m s) = rebind a b m (setRes v s) := rfl

theorem sendBits_rebind (bits : List Level) : sendBits bits (rebind a b m s) = rebind a b m (sendBits bits s) := by
  induction bits generalizing s with
  | nil => rfl
  | cons v rest ih => exact ih (bitCycle v s)

theorem pollLoop_rebind (exp : Level) (fuel : Nat) :
    pollLoop exp fuel (rebind a b m s) = rebind a b m (pollLoop exp fuel s) := by
  induction fuel generalizing s with
  | zero => rfl
  | succ n ih =>
    have hnext : nextLevel (rebind a b m s) = nextLevel s := rfl
    have hcnt : (rebind a b m s).pollCnt < (rebind a b m s).params.ackPollMax ↔ s.pollCnt < s.params.ackPollMax := .rfl
    simp only [pollLoop, hnext, hcnt]
    split_ifs
    · rfl
    · exact ih { hold s.params.holds.poll (sampleSda s) with pollCnt := s.pollCnt + 1 }
    · rfl

theorem ackRead_rebind (exp : Level) :
    ackRead exp (rebind a b m s) = ((ackRead exp s).1, rebind a b m (ackRead exp s).2) := by
  have hpoll : pollPhase exp (releasePhase (rebind a b m s)) = rebind a b m (pollPhase exp (releasePhase s)) :=
    pollLoop_rebind a b m { releasePhase s with pollCnt := 0 } exp _
  rw [ackRead, hpoll]
  rfl

theorem unitAck_rebind (data : Byte) (n : Nat) (exp : Level) :
    unitAck data n exp (rebind a b m s) = ((unitAck data n exp s).1, rebind a b m (unitAck data n exp s).2) := by
  rw [unitAck, sendBits_rebind, ackRead_rebind]
  rfl

theorem unitNoack_rebind (data : Byte) (n : Nat) :
    unitNoack data n (rebind a b m s) = rebind a b m (unitNoack data n s) := by
  rw [unitNoack, sendBits_rebind]
  rfl

theorem sendBytesExp_rebind (vs : List Byte) (exp : Level) :
    sendBytesExp vs exp (rebind a b m s) = rebind a b m (sendBytesExp vs exp s) := by
  induction vs generalizing s with
  | nil => rfl
  | cons v rest ih =>
    rw [sendBytesExp, sendByteExp, unitAck_rebind]
    exact ih _

theorem bytesFrame_rebind (vs : List Byte) (exp : Level) :
    bytesFrame vs exp (rebind a b m s) = rebind a b m (bytesFrame vs exp s) :=
  congrArg stopCond (sendBytesExp_rebind a b m (startCond s) vs exp)

theorem writeFrame_rebind (c : BitVec 12) : writeFrame c (rebind a b m s) = rebind a b m (writeFrame c s) := by
  rw [writeFrame_eq, writeFrame_eq]
  exact bytesFrame_rebind a b m s _ _

theorem headerFrame_rebind : headerFrame (rebind a b m s) = rebind a b m (headerFrame s) :=
  congrArg stopCond (unitNoack_rebind a b m (startCond s) Config.hdr 3)

theorem persistPhases_rebind : persistPhases (rebind a b m s) = rebind a b m (persistPhases s) := by
  have hwait : ∀ n t, waitMs n (rebind a b m t) = rebind a b m (waitMs n t) := fun _ _ => rfl
  have hparams : ∀ t, (rebind a b m t).params = t.params := fun _ => rfl
  simp only [persistPhases, headerFrame_rebind, bytesFrame_rebind, hwait, hparams]

theorem next_guarded_rebind (need : DevState) (body : State → State)
    (h : body (rebind a b m s) = rebind a b m (body s)) :
    (.next (guarded need body (rebind a b m s)) : Host.Outcome State Fault Refusal) =
      .next (rebind a b m (guarded need body s)) := by
  by_cases hs : s.st = need
  · rw [guarded_of_eq need body (rebind a b m s) hs, guarded_of_eq need body s hs, h]
  · rw [guarded_of_ne need body (rebind a b m s) hs, guarded_of_ne need body s hs]
    rfl

theorem wrcodeBody_rebind (code : BitVec 16) :
    wrcodeBody code (rebind a b m s) = rebind a b m (wrcodeBody code s) := by
  unfold wrcodeBody
  split
  · exact congrArg _ (writeFrame_rebind a b m { s with lastCode := low12 code } (low12 code))
  · rfl

/-- No command but INIT reads or writes the binding. -/
theorem exec_rebind {i : Instr} (hi : ∀ x y, i ≠ .init x y) :
    ∃ t, exec i s = .next t ∧ exec i (rebind a b m s) = .next (rebind a b m t) := by
  cases i with
  | init x y => exact absurd rfl (hi x y)
  | setcal lo up => exact ⟨_, rfl, congrArg Host.Outcome.next (by split <;> rfl)⟩
  | cvtc2i | cvti2c => exact ⟨_, rfl, rfl⟩
  | start | stop => exact ⟨_, rfl, next_guarded_rebind a b m s .ready _ rfl⟩
  | wrcode code => exact ⟨_, rfl, next_guarded_rebind a b m s .ready _ (wrcodeBody_rebind a b m s code)⟩
  | wrcur cur =>
    have frame := writeFrame_rebind a b m { s with lastCode := wrcurCode cur s } (wrcurCode cur s)
    exact ⟨_, rfl, next_guarded_rebind a b m s .ready _ (congrArg (setRes _) frame)⟩
  | persist =>
    exact ⟨_, rfl, next_guarded_rebind a b m s .ready _ (by simp only [persistPhases_rebind, setRes_rebind])⟩
  | xferAck data n exp =>
    exact ⟨_, rfl, next_guarded_rebind a b m s .ready _ (by simp only [unitAck_rebind, setRes_rebind])⟩
  | xferNoack data n =>
    exact ⟨_, rfl, next_guarded_rebind a b m s .ready _ (by simp only [unitNoack_rebind, setRes_rebind])⟩
  | ackrd exp => exact ⟨_, rfl, next_guarded_rebind a b m s .ready _ (by simp only [ackRead_rebind, setRes_rebind])⟩

end

/-- Putting the binding of a state in its own place changes nothing, so a command that commutes with this keeps it. -/
theorem exec_sameBinding {i : Instr} {s t : State} (hi : ∀ x y, i ≠ .init x y) (h : exec i s = .next t) :
    SameBinding s t := by
  obtain ⟨u, hu, hown⟩ := exec_rebind s.pinScl s.pinSda s.sclMode s hi
  obtain rfl : t = rebind s.pinScl s.pinSda s.sclMode u := by
    injection h.symm.trans hown
  exact ⟨rfl, rfl, rfl⟩

/-- Settles O50: no command but INIT reads the binding, and the clock's direction stays what it was. -/
theorem pinIdentifiersOnlyNameTheLines : Obligations.PinIdentifiersOnlyNameTheLines := by
  intro i s t a b hi h
  obtain ⟨-, -, hmode⟩ := exec_sameBinding hi h
  obtain ⟨u, hu, hother⟩ := exec_rebind a b s.sclMode s hi
  obtain rfl : u = t := by simpa [hu] using h
  rw [rebind, rebind] at hother
  rw [hmode]
  exact hother

/-- Settles O21: the frames of the first writes, the events and the last writes put together. -/
theorem whatEachCommandMayWrite : Obligations.WhatEachCommandMayWrite := by
  intro i s t h
  refine ⟨exec_sameControl h, fun hi => ⟨?_, exec_sameBinding hi h⟩, fun hi => ?_, fun hen => ?_,
    exec_lastCode h, ?_⟩
  · rcases exec_st h with hst | ⟨⟨a, b, he⟩, -⟩
    · exact hst
    · exact absurd he (hi a b)
  · rcases exec_cal h with hcal | ⟨⟨lo, up, he⟩, -⟩
    · exact hcal
    · exact absurd he (hi lo up)
  · rcases exec_cal h with ⟨hcal, -⟩ | ⟨-, hon⟩
    · exact hcal.trans hen
    · exact hon
  · rintro (⟨lo, up, rfl⟩ | ⟨c, rfl⟩ | ⟨c, rfl⟩) <;> exact noEvent_of_writeAtEnd (ack := false) rfl h

/-! ### READY (10_state.md R11) -/

theorem writeAtEnd_ready (i : Instr) (ack : Level) {s : State} (h : s.st = .ready) :
    (writeAtEnd i ack s).st = .ready := by
  rcases writeAtEnd_st i ack s with he | ⟨a, b, -, -, he⟩
  · exact he.trans h
  · exact he

theorem advance_ready (f : Flight) (s : State) (h : s.st = .ready) : (advance f s).st = .ready := by
  cases hf : f.todo with
  | nil =>
    rw [advance_of_nil hf]
    exact writeAtEnd_ready f.cmd f.ack h
  | cons op rest =>
    obtain ⟨g, u, ha, hg⟩ := advance_of_cons hf s
    obtain ⟨evs, hr⟩ := hg.runs
    rw [ha]
    exact hr.st.trans h

theorem accept_st (i : Instr) (s : State) : (accept i s).st = s.st := by
  unfold accept
  split
  · exact writeAtStart_st i s
  · rfl

theorem acceptNext_st (s : State) : (acceptNext s).st = s.st := by
  unfold acceptNext
  split
  · rfl
  · split
    · exact accept_st _ _
    · rfl

theorem tick_ready {s : State} (hrst : s.rst = false) (h : s.st = .ready) : (tick s).st = .ready := by
  cases hseq : s.seq with
  | running f =>
    rw [tick_of_running hrst hseq]
    exact advance_ready f s h
  | idle =>
    rw [tick_of_idle hrst hseq, acceptNext_st]
    exact h

theorem exec_ready {i : Instr} {s t : State} (hx : exec i s = .next t) (h : s.st = .ready) : t.st = .ready := by
  rcases exec_st hx with he | ⟨-, he⟩
  · exact he.trans h
  · exact he

theorem step_ready {s : State} (hrst : s.rst = false) (h : s.st = .ready) : ∃ t, step s = .next t ∧ t.st = .ready := by
  cases hseq : s.seq with
  | running f =>
    exact ⟨_, step_of_running hrst hseq, finish_keeps (fun f s _ => advance_ready f s) f h⟩
  | idle =>
    cases hw : s.words with
    | nil => exact ⟨s, step_of_no_word hrst hseq hw, h⟩
    | cons w rest =>
      cases hdec : decodeWord w with
      | ok i =>
        obtain ⟨t, ht⟩ := exec_total i { s with words := rest }
        exact ⟨t, (step_of_command hrst hseq hw hdec).trans ht, exec_ready ht h⟩
      | error e => exact ⟨_, step_of_illegal hrst hseq hw hdec, h⟩

/-- The last sample of an acknowledgment read is the one whose level it returns, and the restore takes none. -/
theorem lastLevel_of_ackTrace {p : Params} {exp r : Level} {evs : List Event} (h : AckTrace p exp evs r) :
    (evs.filterMap levelOf).getLast? = some r := by
  obtain ⟨poll, -, rfl⟩ := h
  simp [traceAck, traceHold, levelOf, List.findSome?]

/-- The presence check returns the level of the last sample of its frame. -/
theorem presenceCheck_spec (s : State) :
    ∃ evs, Runs s (presenceCheck s).2 evs ∧ (evs.filterMap levelOf).getLast? = some (presenceCheck s).1 := by
  have start := ((runs_setMode .scl .out s).trans (runs_setMode .sda .out _)).trans (runs_startCond _)
  have hcheck : ∀ u, startCond (setMode .sda .out (setMode .scl .out s)) = u → presenceCheck s =
      ((unitAck (addrByte u.params) 8 u.params.ackLevel u).1,
        stopCond (unitAck (addrByte u.params) 8 u.params.ackLevel u).2) := fun u hu => hu ▸ rfl
  generalize hu : startCond (setMode .sda .out (setMode .scl .out s)) = u at start
  obtain ⟨_, ⟨ack, hack, rfl⟩, unit⟩ := unitAck_spec (addrByte u.params) 8 u.params.ackLevel u
  have stop := runs_stopCond (unitAck (addrByte u.params) 8 u.params.ackLevel u).2
  have hstop : ∀ p, (traceP p).filterMap levelOf = [] := fun _ => rfl
  rw [hcheck u hu]
  refine ⟨_, (start.trans unit).trans stop, ?_⟩
  simp only [List.filterMap_append, hstop, List.append_nil, List.getLast?_append, lastLevel_of_ackTrace hack,
    Option.some_or]

/-- An INIT that leads to READY passed its pin check, and the last level its frame sampled is the acknowledgment
level (42_device_commands.md R103). -/
theorem init_ready {a b : BitVec 16} {s t : State} (h : exec (.init a b) s = .next t) (hs : s.st = .uninit)
    (ht : t.st = .ready) :
    pinsOk s.params a b = true ∧
      ∃ evs, emitted t = emitted s ++ evs ∧ (evs.filterMap levelOf).getLast? = some s.params.ackLevel := by
  obtain rfl : initBody a b s = t := by
    injection (next_guarded_of_eq hs).symm.trans h
  by_cases hp : pinsOk s.params a b
  · obtain ⟨evs, hr, hlast⟩ := presenceCheck_spec (bindPins a b s)
    have hparams : (presenceCheck (bindPins a b s)).2.params = s.params := hr.params
    by_cases hack : (presenceCheck (bindPins a b s)).1 = s.params.ackLevel
    · refine ⟨hp, evs, ?_, hack ▸ hlast⟩
      simpa [initBody, presenceResult, hp, hparams, hack, emitted] using hr.emits
    · have hst : (presenceCheck (bindPins a b s)).2.st = .uninit := hr.st.trans hs
      simp [initBody, presenceResult, hp, hparams, hack, hst] at ht
  · simp [initBody, hp, hs] at ht

/-- Settles O20: no write outside the events of a command takes `st` from READY, and the one that puts it there is
INIT's, after a presence check answered. -/
theorem facadeStateMachine : Obligations.FacadeStateMachine := by
  refine ⟨fun s hrst h => ⟨tick_ready hrst h, step_ready hrst h⟩, fun i s t h hs ht => ?_, fun s lo up => ?_⟩
  · rcases exec_st h with he | ⟨⟨a, b, rfl⟩, -⟩
    · cases hs.symm.trans (he.symm.trans ht)
    · obtain ⟨hp, evs, hemit, hlast⟩ := init_ready h hs ht
      obtain ⟨ha, hb⟩ := (pinsOk_iff _ a b).mp hp
      exact ⟨a, b, evs, rfl, ha, hb, hemit, hlast⟩
  · obtain ⟨t, ht⟩ := exec_total (.setcal lo up) s
    rcases exec_st ht with he | ⟨⟨a, b, hi⟩, -⟩
    · exact ⟨t, ht, he⟩
    · cases hi

end Sys2Proof.Proofs
end

section
/-! PROOFS. The family of 20_memory.md: a command in flight does not read the port (R43), the record of events only grows
(R41), and the data line is sampled only while it is released (R40). The last rests on `BusEvents`, the shape of what a
command emits: acknowledgment reads, between events that neither sample nor release a line. -/

namespace Sys2Proof.Proofs

open Sys2Proof.Machine

/-! ### The port and a command in flight (20_memory.md R43) -/

/-- The state with other words on the port. Below: a command in flight commutes with putting them there. -/
def withWords (ws : List CmdWord) (s : State) : State := { s with words := ws }

section
variable (ws : List CmdWord) (s : State)

theorem emitEvent_withWords (e : Event) : emitEvent e (withWords ws s) = withWords ws (emitEvent e s) := by
  cases e with
  | mode line m => cases line <;> rfl
  | drive line v => cases line <;> rfl
  | sample | waitUs | waitMs => rfl

theorem writeAtEnd_withWords (i : Instr) (ack : Level) :
    writeAtEnd i ack (withWords ws s) = withWords ws (writeAtEnd i ack s) := by
  cases i with
  | init a b =>
    have hp : (withWords ws s).params = s.params := rfl
    simp only [writeAtEnd, presenceResult, hp]
    split_ifs <;> rfl
  | setcal lo hi =>
    simp only [writeAtEnd]
    split_ifs <;> rfl
  | wrcode | wrcur | persist | cvtc2i | cvti2c | start | stop | xferAck | xferNoack | ackrd => rfl

theorem advance_withWords (f : Flight) : advance f (withWords ws s) = withWords ws (advance f s) := by
  obtain ⟨cmd, index, todo, ack⟩ := f
  cases todo with
  | nil => exact congrArg (fun t : State => { t with busy := false, seq := .idle }) (writeAtEnd_withWords ws s cmd ack)
  | cons op rest =>
    cases op with
    | emit e =>
      simp only [advance, emitEvent_withWords]
      rfl
    | poll exp =>
      have hcnt : (withWords ws s).pollCnt < (withWords ws s).params.ackPollMax ↔ s.pollCnt < s.params.ackPollMax := .rfl
      have hnext : nextLevel (withWords ws s) = nextLevel s := rfl
      simp only [advance, hcnt, hnext]
      split_ifs <;> rfl
    | clearPoll | pollWait | finalSample => rfl

theorem advances_withWords (n : Nat) : advances n (withWords ws s) = withWords ws (advances n s) := by
  induction n generalizing s with
  | zero => rfl
  | succ n ih =>
    have hseq : (withWords ws s).seq = s.seq := rfl
    simp only [advances, hseq]
    cases s.seq with
    | idle => rfl
    | running f => simp only [advance_withWords, ih]

theorem finish_withWords (f : Flight) : finish f (withWords ws s) = withWords ws (finish f s) :=
  advances_withWords ws s (opsCost s.params f.todo)

end

/-- Settles O14: each small step of a command in flight commutes with changing the port, so all of them together do. -/
theorem commandInFlightIgnoresThePort : Obligations.CommandInFlightIgnoresThePort := by
  intro s f ws hrst hseq
  have hrst' : (withWords ws s).rst = false := hrst
  have hseq' : (withWords ws s).seq = .running f := hseq
  constructor
  · rw [tick_of_running hrst hseq]
    exact (tick_of_running hrst' hseq').trans (advance_withWords ws s f)
  · exact ⟨finish f s, step_of_running hrst hseq,
      (step_of_running hrst' hseq').trans (congrArg _ (finish_withWords ws s f))⟩

/-! ### What a command emits (40_bus_primitives.md R67 to R79) -/

/-- The event neither samples a line nor puts one in input mode. -/
def LeavesDriven (e : Event) : Prop := isSample e = false ∧ ∀ line, e ≠ .mode line .inPu

@[simp] theorem leavesDriven_mode_out (line : Line) : LeavesDriven (.mode line .out) := ⟨rfl, by simp⟩

@[simp] theorem leavesDriven_drive (line : Line) (v : Level) : LeavesDriven (.drive line v) := ⟨rfl, nofun⟩

@[simp] theorem leavesDriven_waitUs (n : Nat) : LeavesDriven (.waitUs n) := ⟨rfl, nofun⟩

@[simp] theorem leavesDriven_waitMs (n : Nat) : LeavesDriven (.waitMs n) := ⟨rfl, nofun⟩

/-- Acknowledgment reads, and around them events that leave both lines driven. -/
inductive BusEvents (p : Params) : List Event → Prop where
  | nil : BusEvents p []
  | cons {e : Event} {rest : List Event} : LeavesDriven e → BusEvents p rest → BusEvents p (e :: rest)
  | ack {exp r : Level} {evs rest : List Event} : AckTrace p exp evs r → BusEvents p rest → BusEvents p (evs ++ rest)

section
variable {p : Params}

theorem BusEvents.append {xs ys : List Event} (hx : BusEvents p xs) (hy : BusEvents p ys) : BusEvents p (xs ++ ys) := by
  induction hx with
  | nil => exact hy
  | cons he _ ih => exact .cons he ih
  | ack ha _ ih =>
    rw [List.append_assoc]
    exact .ack ha ih

theorem BusEvents.of_leavesDriven {evs : List Event} (h : ∀ e ∈ evs, LeavesDriven e) : BusEvents p evs := by
  induction evs with
  | nil => exact .nil
  | cons e rest ih =>
    obtain ⟨he, hrest⟩ := List.forall_mem_cons.mp h
    exact .cons he (ih hrest)

theorem busEvents_traceS : BusEvents p (traceS p) := .of_leavesDriven (by simp [traceS, traceHold])

theorem busEvents_traceP : BusEvents p (traceP p) := .of_leavesDriven (by simp [traceP, traceHold])

theorem busEvents_traceT : BusEvents p (traceT p) := .of_leavesDriven (by simp [traceT])

theorem busEvents_traceBits (data : Byte) (n : Nat) : BusEvents p (traceBits p data n) :=
  .of_leavesDriven (by simp +contextual [traceBits, traceBit, traceHold, or_imp])

theorem busEvents_of_ackTrace {exp r : Level} {evs : List Event} (h : AckTrace p exp evs r) : BusEvents p evs := by
  simpa using BusEvents.ack h .nil

theorem busEvents_of_unitTrace {data : Byte} {n : Nat} {exp r : Level} {evs : List Event}
    (h : UnitTrace p data n exp evs r) : BusEvents p evs := by
  obtain ⟨ack, ha, rfl⟩ := h
  exact (busEvents_traceBits data n).append (busEvents_of_ackTrace ha)

theorem busEvents_of_bytesTrace {exp : Level} {vs : List Byte} {evs : List Event} (h : BytesTrace p exp vs evs) :
    BusEvents p evs := by
  induction vs generalizing evs with
  | nil =>
    obtain rfl : evs = [] := h
    exact .nil
  | cons v rest ih =>
    obtain ⟨r, here, after, hu, hb, rfl⟩ := h
    exact (busEvents_of_unitTrace hu).append (ih hb)

theorem busEvents_of_frameTrace {exp : Level} {vs : List Byte} {evs : List Event} (h : FrameTrace p exp vs evs) :
    BusEvents p evs := by
  obtain ⟨bytes, hb, rfl⟩ := h
  exact (busEvents_traceS.append (busEvents_of_bytesTrace hb)).append busEvents_traceP

theorem busEvents_traceHeader : BusEvents p (traceHeader p) :=
  ((busEvents_traceS.append (busEvents_traceBits _ _)).append busEvents_traceT).append busEvents_traceP

end

/-- `t` is `s` after such events. -/
def RunsBus (s t : State) : Prop := ∃ evs, BusEvents s.params evs ∧ Runs s t evs

theorem RunsBus.trans {s t u : State} (h : RunsBus s t) (k : RunsBus t u) : RunsBus s u := by
  obtain ⟨xs, hx, hr⟩ := h
  obtain ⟨ys, hy, kr⟩ := k
  rw [hr.params] at hy
  exact ⟨xs ++ ys, hx.append hy, hr.trans kr⟩

theorem runsBus_setMode_out (line : Line) (s : State) : RunsBus s (setMode line .out s) :=
  ⟨_, .of_leavesDriven (by simp), runs_setMode line .out s⟩

theorem runsBus_waitMs (n : Nat) (s : State) : RunsBus s (waitMs n s) :=
  ⟨_, .of_leavesDriven (by simp), runs_waitMs n s⟩

theorem runsBus_startCond (s : State) : RunsBus s (startCond s) := ⟨_, busEvents_traceS, runs_startCond s⟩

theorem runsBus_stopCond (s : State) : RunsBus s (stopCond s) := ⟨_, busEvents_traceP, runs_stopCond s⟩

theorem runsBus_ackRead (exp : Level) (s : State) : RunsBus s (ackRead exp s).2 := by
  obtain ⟨evs, ha, hr⟩ := ackRead_spec exp s
  exact ⟨evs, busEvents_of_ackTrace ha, hr⟩

theorem runsBus_unitAck (data : Byte) (n : Nat) (exp : Level) (s : State) : RunsBus s (unitAck data n exp s).2 := by
  obtain ⟨evs, hu, hr⟩ := unitAck_spec data n exp s
  exact ⟨evs, busEvents_of_unitTrace hu, hr⟩

theorem runsBus_unitNoack (data : Byte) (n : Nat) (s : State) : RunsBus s (unitNoack data n s) :=
  ⟨_, (busEvents_traceBits data n).append busEvents_traceT, runs_unitNoack data n s⟩

theorem runsBus_bytesFrame (vs : List Byte) (exp : Level) (s : State) : RunsBus s (bytesFrame vs exp s) := by
  obtain ⟨evs, hf, hr⟩ := bytesFrame_spec vs exp s
  exact ⟨evs, busEvents_of_frameTrace hf, hr⟩

theorem runsBus_headerFrame (s : State) : RunsBus s (headerFrame s) := ⟨_, busEvents_traceHeader, runs_headerFrame s⟩

theorem runsBus_writeFrame (c : BitVec 12) (s : State) : RunsBus s (writeFrame c s) := by
  rw [writeFrame_eq]
  exact runsBus_bytesFrame _ _ s

theorem runsBus_persistPhases (s : State) : RunsBus s (persistPhases s) :=
  (((((runsBus_headerFrame s).trans (runsBus_bytesFrame _ _ _)).trans (runsBus_bytesFrame _ _ _)).trans
    (runsBus_waitMs _ _)).trans (runsBus_headerFrame _)).trans (runsBus_bytesFrame _ _ _)

theorem runsBus_presenceCheck (s : State) : RunsBus s (presenceCheck s).2 :=
  ((((runsBus_setMode_out .scl s).trans (runsBus_setMode_out .sda _)).trans (runsBus_startCond _)).trans
    (runsBus_unitAck _ _ _ _)).trans (runsBus_stopCond _)

/-- From `s` to `t` such events are emitted, whatever else is written. -/
def EmitsBus (s t : State) : Prop := ∃ evs, BusEvents s.params evs ∧ emitted t = emitted s ++ evs

theorem RunsBus.emitsBus {s t : State} (h : RunsBus s t) : EmitsBus s t := by
  obtain ⟨evs, hb, hr⟩ := h
  exact ⟨evs, hb, hr.emits⟩

theorem emitsBus_of_emitted_eq {s t : State} (h : emitted t = emitted s) : EmitsBus s t :=
  ⟨[], .nil, by rw [h, List.append_nil]⟩

theorem EmitsBus.setRes {s t : State} (h : EmitsBus s t) (v : BitVec 32) : EmitsBus s (setRes v t) := h

theorem emitsBus_guarded (need : DevState) (body : State → State) (s : State) (h : EmitsBus s (body s)) :
    EmitsBus s (guarded need body s) := by
  by_cases hs : s.st = need
  · rwa [guarded_of_eq need body s hs]
  · rw [guarded_of_ne need body s hs]
    exact emitsBus_of_emitted_eq rfl

theorem emitsBus_presenceResult (r : Level) {s t : State} (h : EmitsBus s t) : EmitsBus s (presenceResult r t) := by
  unfold presenceResult
  split
  · exact h
  · exact h.setRes 2

theorem emitsBus_initBody (a b : BitVec 16) (s : State) : EmitsBus s (initBody a b s) := by
  unfold initBody
  split
  · exact emitsBus_presenceResult _ (runsBus_presenceCheck (bindPins a b s)).emitsBus
  · exact emitsBus_of_emitted_eq rfl

theorem emitsBus_writeCode (c : BitVec 12) (s : State) : EmitsBus s (writeCode c s) :=
  (runsBus_writeFrame c { s with lastCode := c }).emitsBus

theorem emitsBus_wrcodeBody (code : BitVec 16) (s : State) : EmitsBus s (wrcodeBody code s) := by
  unfold wrcodeBody
  split
  · exact (emitsBus_writeCode (low12 code) s).setRes _
  · exact emitsBus_of_emitted_eq rfl

/-- Every command emits acknowledgment reads and events that leave the lines driven, and nothing else. -/
theorem exec_emitsBus {i : Instr} {s t : State} (h : exec i s = .next t) : EmitsBus s t := by
  suffices hx : ∃ u, exec i s = .next u ∧ EmitsBus s u by
    obtain ⟨u, hu, he⟩ := hx
    obtain rfl : u = t := by injection hu.symm.trans h
    exact he
  cases i with
  | init a b => exact ⟨_, rfl, emitsBus_guarded _ _ s (emitsBus_initBody a b s)⟩
  | setcal lo hi => exact ⟨_, rfl, emitsBus_of_emitted_eq (by split <;> rfl)⟩
  | wrcode code => exact ⟨_, rfl, emitsBus_guarded _ _ s (emitsBus_wrcodeBody code s)⟩
  | wrcur cur => exact ⟨_, rfl, emitsBus_guarded _ _ s ((emitsBus_writeCode (wrcurCode cur s) s).setRes _)⟩
  | persist => exact ⟨_, rfl, emitsBus_guarded _ _ s ((runsBus_persistPhases s).emitsBus.setRes _)⟩
  | cvtc2i | cvti2c => exact ⟨_, rfl, emitsBus_of_emitted_eq rfl⟩
  | start => exact ⟨_, rfl, emitsBus_guarded _ _ s ((runsBus_startCond s).emitsBus.setRes _)⟩
  | stop => exact ⟨_, rfl, emitsBus_guarded _ _ s ((runsBus_stopCond s).emitsBus.setRes _)⟩
  | xferAck data n exp => exact ⟨_, rfl, emitsBus_guarded _ _ s ((runsBus_unitAck data n exp s).emitsBus.setRes _)⟩
  | xferNoack data n => exact ⟨_, rfl, emitsBus_guarded _ _ s ((runsBus_unitNoack data n s).emitsBus.setRes _)⟩
  | ackrd exp => exact ⟨_, rfl, emitsBus_guarded _ _ s ((runsBus_ackRead exp s).emitsBus.setRes _)⟩

/-! ### The record of events (20_memory.md R41) -/

/-- From `s` to `t` events are added to the record, and neither the parameters nor the level of `rst` are written. -/
def Appends (s t : State) : Prop := (∃ evs, emitted t = emitted s ++ evs) ∧ t.params = s.params ∧ t.rst = s.rst

theorem Appends.refl (s : State) : Appends s s := ⟨⟨[], by simp⟩, rfl, rfl⟩

theorem Appends.trans {s t u : State} (h : Appends s t) (k : Appends t u) : Appends s u := by
  obtain ⟨⟨xs, hx⟩, hp, hr⟩ := h
  obtain ⟨⟨ys, hy⟩, kp, kr⟩ := k
  exact ⟨⟨xs ++ ys, by rw [hy, hx, List.append_assoc]⟩, kp.trans hp, kr.trans hr⟩

theorem appends_exec {i : Instr} {s t : State} (h : exec i s = .next t) : Appends s t := by
  obtain ⟨evs, -, hemit⟩ := exec_emitsBus h
  obtain ⟨-, -, hrst, -, hparams⟩ := exec_sameControl h
  exact ⟨⟨evs, hemit⟩, hparams, hrst⟩

theorem appends_advance (f : Flight) (s : State) : Appends s (advance f s) := by
  cases h : f.todo with
  | nil =>
    obtain ⟨⟨-, -, hrst, -, hparams⟩, hnone⟩ := writeAtEnd_frame f.cmd f.ack s
    rw [advance_of_nil h]
    exact ⟨⟨[], (emitted_of_noEvent hnone).trans (List.append_nil _).symm⟩, hparams, hrst⟩
  | cons op rest =>
    obtain ⟨g, u, ha, hg⟩ := advance_of_cons h s
    obtain ⟨evs, hr⟩ := hg.runs
    rw [ha]
    exact ⟨⟨evs, hr.emits⟩, hr.params, hr.rst⟩

/-- Settles O22: reset and the port emit nothing, a command emits its events, and the end of a command in flight is a
run of small steps that each add to the record. -/
theorem stepOnlyAppendsToTheTrace : Obligations.StepOnlyAppendsToTheTrace := by
  intro s t ht
  suffices Appends s t from this
  rw [step] at ht
  cases hact : nextAction s with
  | reset =>
    obtain rfl : holdReset s = t := by simpa [hact] using ht
    exact Appends.refl s
  | inFlight f =>
    obtain rfl : finish f s = t := by simpa [hact] using ht
    exact finish_keeps (fun g u _ h => h.trans (appends_advance g u)) f (Appends.refl s)
  | wait =>
    obtain rfl : s = t := by simpa [hact] using ht
    exact Appends.refl s
  | command i rest =>
    have hx : exec i { s with words := rest } = .next t := by simpa [hact] using ht
    exact (appends_exec hx :)
  | illegal rest =>
    obtain rfl : illegalResponse { s with words := rest } = t := by simpa [hact] using ht
    exact Appends.refl s

/-! ### Samples and the data line (20_memory.md R40, 40_bus_primitives.md R75) -/

/-- From the pin state `p`, every sample among the events is taken while the data line is in input mode. -/
def SampledReleased (p : Pins) (evs : List Event) : Prop :=
  match evs with
  | [] => True
  | e :: rest => (isSample e = true → p.sdaMode = .inPu) ∧ SampledReleased (pinsAfter p e) rest

@[simp] theorem sampledReleased_nil (p : Pins) : SampledReleased p [] := trivial

@[simp] theorem sampledReleased_cons (p : Pins) (e : Event) (rest : List Event) :
    SampledReleased p (e :: rest) ↔ (isSample e = true → p.sdaMode = .inPu) ∧ SampledReleased (pinsAfter p e) rest :=
  .rfl

@[simp] theorem sampledReleased_append (p : Pins) (xs ys : List Event) :
    SampledReleased p (xs ++ ys) ↔ SampledReleased p xs ∧ SampledReleased (pinsAfterAll p xs) ys := by
  induction xs generalizing p with
  | nil => simp
  | cons e rest ih => simp [ih, and_assoc]

/-- The poll samples and waits, so it writes no pin and needs the data line released from the start. -/
theorem traceMisses_released (prm : Params) (exp : Level) (k : Nat) (p : Pins) (h : p.sdaMode = .inPu) :
    SampledReleased p (traceMisses prm exp k) ∧ pinsAfterAll p (traceMisses prm exp k) = p := by
  induction k with
  | zero => simp [traceMisses]
  | succ k ih => simpa [traceMisses_succ, traceHold, pinsAfter, h] using ih

theorem pollTrace_released {prm : Params} {exp : Level} {poll : List Event} (hpoll : PollTrace prm exp poll) {p : Pins}
    (h : p.sdaMode = .inPu) : SampledReleased p poll ∧ pinsAfterAll p poll = p := by
  rcases hpoll with ⟨k, -, rfl⟩ | rfl
  · obtain ⟨hmiss, hpins⟩ := traceMisses_released prm exp k p h
    simp [hmiss, hpins, pinsAfter, h]
  · exact traceMisses_released prm exp _ p h

/-- An acknowledgment read releases the data line before its first sample, whatever the mode was. -/
theorem ackTrace_released {prm : Params} {exp r : Level} {evs : List Event} (h : AckTrace prm exp evs r) (p : Pins) :
    SampledReleased p evs := by
  obtain ⟨poll, hpoll, rfl⟩ := h
  obtain ⟨hrel, hpins⟩ := pollTrace_released hpoll (p := ⟨p.sclMode, true, .inPu, p.sdaOut⟩) rfl
  simp [traceAck, traceHold, isSample, pinsAfter, hrel, hpins]

theorem BusEvents.sampledReleased {prm : Params} {evs : List Event} (h : BusEvents prm evs) (p : Pins) :
    SampledReleased p evs := by
  induction h generalizing p with
  | nil => trivial
  | cons he _ ih =>
    obtain ⟨hno, -⟩ := he
    exact ⟨fun hs => (Bool.false_ne_true (hno.symm.trans hs)).elim, ih _⟩
  | ack ha _ ih => exact (sampledReleased_append p _ _).mpr ⟨ackTrace_released ha p, ih _⟩

/-- Settles O25: the samples of a command are those of its acknowledgment reads, each between release and restore. -/
theorem samplesOnlyWhileDataLineReleased : Obligations.SamplesOnlyWhileDataLineReleased := by
  intro i s t before after v h hemit
  obtain ⟨evs, hbus, hevs⟩ := exec_emitsBus h
  obtain rfl : before ++ ([.sample .sda v] ++ after) = evs := by simpa [hevs] using hemit.symm
  obtain ⟨-, hsample, -⟩ := (sampledReleased_append _ _ _).mp (hbus.sampledReleased (pinsOf s))
  exact hsample rfl

end Sys2Proof.Proofs
end

section
/-! PROOFS. The family of 30_encoding.md: a word and its command determine each other (R45 to R49), as bytes (20_memory.md
R36), by the opcode table (R48) and as an assembler line (R52); and the write frame of R54 as a receiver sees it. The
frame rests on `ClocksLow`: what a list of events puts on the bus between two moments at which the clock is driven low. -/

namespace Sys2Proof.Proofs

open Sys2Proof.Machine Sys2Proof.Laws

/-! ### A word is its bytes and its fields (20_memory.md R36, 30_encoding.md R45, R46) -/

/-- Two neighbouring fields, the cut between them as an argument: a rewrite does not find 32 to be 24 + 8 by itself. -/
theorem append_fields {n : Nat} (x : BitVec n) (lo len len' : Nat) :
    x.extractLsb' (lo + len) len' ++ x.extractLsb' lo len = x.extractLsb' lo (len' + len) :=
  BitVec.extractLsb'_append_extractLsb'_eq_extractLsb' rfl

theorem wordOfBytes_bytes (w : CmdWord) :
    wordOfBytes (w.extractLsb' 32 8) (w.extractLsb' 24 8) (w.extractLsb' 16 8) (w.extractLsb' 8 8)
      (w.extractLsb' 0 8) = w := by
  rw [wordOfBytes, append_fields w 24 8 8, append_fields w 16 8 16, append_fields w 8 8 24, append_fields w 0 8 32]
  exact BitVec.extractLsb'_eq_self

/-- The decoder of bytes reads the word they spell and leaves the rest. -/
theorem decodeBytes_bytesOfWord {w : CmdWord} {i : Instr} (h : decodeWord w = .ok i) (rest : List Byte) :
    decodeBytes (bytesOfWord w ++ rest) = .ok (i, rest) := by
  simp [bytesOfWord, decodeBytes, wordOfBytes_bytes, h]

/-- A word of the fields of `w` is `w`. -/
theorem wordOfFields_eq {w : CmdWord} {op : Byte} {a b : BitVec 16} (hop : opField w = op) (ha : aField w = a)
    (hb : bField w = b) : wordOfFields op a b = w := by
  subst hop ha hb
  rw [wordOfFields, opField, aField, bField, append_fields w 16 16 8, append_fields w 0 16 24]
  exact BitVec.extractLsb'_eq_self

theorem wordOfCur_eq {w : CmdWord} {op : Byte} (hop : opField w = op) : wordOfCur op (curField w) = w := by
  subst hop
  rw [wordOfCur, opField, curField, append_fields w 0 32 8]
  exact BitVec.extractLsb'_eq_self

theorem ofBool_getLsbD (x : BitVec 16) (k : Nat) : BitVec.ofBool (x.getLsbD k) = x.extractLsb' k 1 := by
  ext i hi
  obtain rfl : i = 0 := by omega
  simp

theorem widthField_pred (w : CmdWord) : BitVec.ofNat 3 (widthField w - 1) = (aField w).extractLsb' 0 3 := by
  simp [widthField, -BitVec.extractLsb'_toNat]

theorem widthOk_widthField (w : CmdWord) : widthOk (widthField w) = true := by
  have h := ((aField w).extractLsb' 0 3).isLt
  simp [widthOk, widthField, -BitVec.extractLsb'_toNat]
  omega

/-! ### One spelling for each command -/

theorem zeroOkX_iff (w : CmdWord) :
    zeroOkX w = true ↔ (aField w).extractLsb' 10 6 = 0#6 ∧ (aField w).extractLsb' 3 5 = 0#5 ∧
      (bField w).extractLsb' 8 8 = 0#8 ∧ (ackField w = false → expField w = false) := by
  cases h : ackField w <;> simp [zeroOkX, h, and_assoc]

theorem zeroOkA_iff (w : CmdWord) :
    zeroOkA w = true ↔ (aField w).extractLsb' 10 6 = 0#6 ∧ (aField w).extractLsb' 0 9 = 0#9 ∧ bField w = 0 := by
  simp [zeroOkA, and_assoc]

theorem zeroOkC_iff (w : CmdWord) : zeroOkC w = true ↔ aField w = 0 := by simp [zeroOkC]

theorem zeroOkZ_iff (w : CmdWord) : zeroOkZ w = true ↔ aField w = 0 ∧ bField w = 0 := by simp [zeroOkZ]

/-- The reserved bits of format X being zero, its fields make up the word's `a` and `b`. -/
theorem unit_fields {w : CmdWord} (h : zeroOkX w = true) :
    aField w = aOfUnit (widthField w) (ackField w) (expField w) ∧ bField w = 0#8 ++ dataField w := by
  obtain ⟨h10, h3, h8, -⟩ := (zeroOkX_iff w).mp h
  constructor
  · rw [aOfUnit, widthField_pred, ackField, expField, ofBool_getLsbD, ofBool_getLsbD, ← h3, ← h10,
      append_fields _ 9 1 6, append_fields _ 8 1 7, append_fields _ 3 5 8, append_fields _ 0 3 13]
    exact BitVec.extractLsb'_eq_self.symm
  · rw [dataField, ← h8, append_fields _ 0 8 8]
    exact BitVec.extractLsb'_eq_self.symm

/-- The reserved bits of format A being zero, its one field makes up the word's `a`. -/
theorem exp_field {w : CmdWord} (h : zeroOkA w = true) : aField w = aOfExp (expField w) := by
  obtain ⟨h10, h0, -⟩ := (zeroOkA_iff w).mp h
  rw [aOfExp, expField, ofBool_getLsbD, ← h0, ← h10, append_fields _ 9 1 6, append_fields _ 0 9 7]
  exact BitVec.extractLsb'_eq_self.symm

/-- Whatever command the decoder's answer is, `w` is that command's word. -/
def Spelled (w : CmdWord) (answer : Except DecodeError Instr) : Prop :=
  ∀ i, answer = .ok i → i.WellFormed ∧ encode i = w

section
variable {w : CmdWord}

theorem spelled_ok {i : Instr} (hwf : i.WellFormed) (h : encode i = w) : Spelled w (.ok i) := by
  rintro _ ⟨⟩
  exact ⟨hwf, h⟩

theorem spelled_error (e : DecodeError) : Spelled w (.error e) := nofun

theorem spelled_ite {c : Prop} [Decidable c] {x y : Except DecodeError Instr} (hx : c → Spelled w x)
    (hy : Spelled w y) : Spelled w (if c then x else y) := by
  split
  · next hc => exact hx hc
  · exact hy

theorem spelled_ifZero {ok : Bool} {i : Instr} (h : ok = true → Spelled w (.ok i)) : Spelled w (ifZero ok w i) := by
  cases ok with
  | true => exact h rfl
  | false => exact spelled_error _

theorem spelled_zeroC {op : Byte} {i : Instr} (hwf : i.WellFormed) (hi : encode i = wordOfFields op 0 (bField w))
    (hop : opField w = op) : Spelled w (ifZero (zeroOkC w) w i) :=
  spelled_ifZero fun h => spelled_ok hwf (hi.trans (wordOfFields_eq hop ((zeroOkC_iff w).mp h) rfl))

theorem spelled_zeroZ {op : Byte} {i : Instr} (hwf : i.WellFormed) (hi : encode i = wordOfFields op 0 0)
    (hop : opField w = op) : Spelled w (ifZero (zeroOkZ w) w i) :=
  spelled_ifZero fun h =>
    have ⟨ha, hb⟩ := (zeroOkZ_iff w).mp h
    spelled_ok hwf (hi.trans (wordOfFields_eq hop ha hb))

/-- Format X in its two forms. -/
theorem spelled_unit (hop : opField w = 0x12) :
    Spelled w (ifZero (zeroOkX w) w
      (if ackField w then .xferAck (dataField w) (widthField w) (expField w)
       else .xferNoack (dataField w) (widthField w))) := by
  refine spelled_ifZero fun h => ?_
  obtain ⟨ha, hb⟩ := unit_fields h
  obtain ⟨-, -, -, hexp⟩ := (zeroOkX_iff w).mp h
  cases hack : ackField w with
  | true =>
    rw [hack] at ha
    exact spelled_ok (widthOk_widthField w) (wordOfFields_eq hop ha hb)
  | false =>
    rw [hack, hexp hack] at ha
    exact spelled_ok (widthOk_widthField w) (wordOfFields_eq hop ha hb)

theorem spelled_ackrd (hop : opField w = 0x13) : Spelled w (ifZero (zeroOkA w) w (.ackrd (expField w))) :=
  spelled_ifZero fun h =>
    have ⟨_, _, hb⟩ := (zeroOkA_iff w).mp h
    spelled_ok rfl (wordOfFields_eq hop (exp_field h) hb)

end

/-- The word of a decoded command is made of the fields the decoder read and of the zeros it checked: line by line of
the decoder. -/
theorem spelled_decodeWord (w : CmdWord) : Spelled w (decodeWord w) :=
  spelled_ite (fun hop => spelled_ok rfl (wordOfFields_eq hop rfl rfl)) <|
  spelled_ite (fun hop => spelled_ok rfl (wordOfFields_eq hop rfl rfl)) <|
  spelled_ite (spelled_zeroC rfl rfl) <|
  spelled_ite (fun hop => spelled_ok rfl (wordOfCur_eq hop)) <|
  spelled_ite (spelled_zeroZ rfl rfl) <|
  spelled_ite (spelled_zeroC rfl rfl) <|
  spelled_ite (fun hop => spelled_ok rfl (wordOfCur_eq hop)) <|
  spelled_ite (spelled_zeroZ rfl rfl) <|
  spelled_ite (spelled_zeroZ rfl rfl) <|
  spelled_ite spelled_unit <|
  spelled_ite spelled_ackrd <|
  spelled_error _

/-- Settles O3: the decoder reads every bit of the word, as an operand or as a zero it checks. -/
theorem encodeOfDecodeIsTheWord : Obligations.EncodeOfDecodeIsTheWord := spelled_decodeWord

/-- Settles O2: the fields of the encoded word are the operands, and the five bytes of a word spell the word. -/
theorem decodeOfEncodeIsTheCommand : Obligations.DecodeOfEncodeIsTheCommand :=
  fun _ h => ⟨decodeWord_encode h, decodeBytes_bytesOfWord (decodeWord_encode h)⟩

/-- Settles O1: the decoder evaluates on each of the words. -/
theorem writtenOutWordsDecode : Obligations.WrittenOutWordsDecode := by
  unfold Obligations.WrittenOutWordsDecode
  decide

/-! ### The opcode table (30_encoding.md R48) -/

/-- Two rows that both accept a word agree where both their masks look. -/
theorem patterns_agree {r r' : Row} {w : CmdWord} (h : r.accepts w = true) (h' : r'.accepts w = true) :
    r.pattern &&& r'.mask = r'.pattern &&& r.mask := by
  rw [← of_decide_eq_true h, ← of_decide_eq_true h', BitVec.and_assoc, BitVec.and_assoc, BitVec.and_comm r.mask]

/-- Different rows differ there: no word is accepted by two. -/
theorem rows_disjoint :
    ∀ r ∈ opcodeRows, ∀ r' ∈ opcodeRows, r.pattern &&& r'.mask = r'.pattern &&& r.mask → r = r' := by
  decide

/-- A field of a masked word is the field under the field of the mask. -/
theorem extract_and_eq {n start len : Nat} {x m p : BitVec n} (h : x &&& m = p) :
    x.extractLsb' start len &&& m.extractLsb' start len = p.extractLsb' start len := by
  rw [← h, BitVec.extractLsb'_and]

/-- Where the mask is all ones, the word is as the pattern says. -/
theorem extract_of_and_eq {n start len : Nat} {x m p : BitVec n} (h : x &&& m = p)
    (hm : m.extractLsb' start len = BitVec.allOnes len) : x.extractLsb' start len = p.extractLsb' start len := by
  rw [← extract_and_eq h, hm, BitVec.and_allOnes]

theorem getLsbD_of_and_eq {n k : Nat} {x m p : BitVec n} (h : x &&& m = p) (hm : m.getLsbD k = true) :
    x.getLsbD k = p.getLsbD k := by
  simp [← h, hm]

section
variable {w : CmdWord}

/-! The decoder row by row: the opcode and the zeros of the row decide. -/

theorem decodeWord_init (hop : opField w = 0x01) : decodeWord w = .ok (.init (aField w) (bField w)) := by
  simp [decodeWord, hop]

theorem decodeWord_setcal (hop : opField w = 0x02) : decodeWord w = .ok (.setcal (aField w) (bField w)) := by
  simp [decodeWord, hop]

theorem decodeWord_wrcode (hop : opField w = 0x03) (ha : aField w = 0) : decodeWord w = .ok (.wrcode (bField w)) := by
  simp [decodeWord, ifZero, zeroOkC, hop, ha]

theorem decodeWord_wrcur (hop : opField w = 0x04) : decodeWord w = .ok (.wrcur (curField w)) := by
  simp [decodeWord, hop]

theorem decodeWord_persist (hop : opField w = 0x05) (ha : aField w = 0) (hb : bField w = 0) :
    decodeWord w = .ok .persist := by
  simp [decodeWord, ifZero, zeroOkZ, hop, ha, hb]

theorem decodeWord_cvtc2i (hop : opField w = 0x08) (ha : aField w = 0) : decodeWord w = .ok (.cvtc2i (bField w)) := by
  simp [decodeWord, ifZero, zeroOkC, hop, ha]

theorem decodeWord_cvti2c (hop : opField w = 0x09) : decodeWord w = .ok (.cvti2c (curField w)) := by
  simp [decodeWord, hop]

theorem decodeWord_start (hop : opField w = 0x10) (ha : aField w = 0) (hb : bField w = 0) :
    decodeWord w = .ok .start := by
  simp [decodeWord, ifZero, zeroOkZ, hop, ha, hb]

theorem decodeWord_stop (hop : opField w = 0x11) (ha : aField w = 0) (hb : bField w = 0) :
    decodeWord w = .ok .stop := by
  simp [decodeWord, ifZero, zeroOkZ, hop, ha, hb]

theorem decodeWord_xferAck (hop : opField w = 0x12) (hack : ackField w = true) (hz : zeroOkX w = true) :
    decodeWord w = .ok (.xferAck (dataField w) (widthField w) (expField w)) := by
  simp [decodeWord, ifZero, hop, hack, hz]

theorem decodeWord_xferNoack (hop : opField w = 0x12) (hack : ackField w = false) (hz : zeroOkX w = true) :
    decodeWord w = .ok (.xferNoack (dataField w) (widthField w)) := by
  simp [decodeWord, ifZero, hop, hack, hz]

theorem decodeWord_ackrd (hop : opField w = 0x13) (hz : zeroOkA w = true) :
    decodeWord w = .ok (.ackrd (expField w)) := by
  simp [decodeWord, ifZero, hop, hz]

end

/-- A command's word is accepted by the row of its mnemonic. -/
theorem encodesItsRow (i : Instr) : EncodesItsRow.Statement i := by
  cases i with
  | init a b => exact EncodesItsRow.init a b
  | setcal lo hi => exact EncodesItsRow.setcal lo hi
  | wrcode code => exact EncodesItsRow.wrcode code
  | wrcur cur => exact EncodesItsRow.wrcur cur
  | persist => exact EncodesItsRow.persist
  | cvtc2i code => exact EncodesItsRow.cvtc2i code
  | cvti2c cur => exact EncodesItsRow.cvti2c cur
  | start => exact EncodesItsRow.start
  | stop => exact EncodesItsRow.stop
  | xferAck data width exp => exact EncodesItsRow.xferAck data width exp
  | xferNoack data width => exact EncodesItsRow.xferNoack data width
  | ackrd exp => exact EncodesItsRow.ackrd exp

/-- A word that a row accepts has the row's opcode and, where the row's mask asks for them, the zeros of its format. -/
theorem decodes_of_accepts {r : Row} {w : CmdWord} (hr : r ∈ opcodeRows) (h : r.accepts w = true) :
    ∃ i, decodeWord w = .ok i ∧ i.mnemonic = r.mnemonic := by
  have hw : w &&& r.mask = r.pattern := of_decide_eq_true h
  have field {start len : Nat} (hm : r.mask.extractLsb' start len = BitVec.allOnes len) :
      w.extractLsb' start len = r.pattern.extractLsb' start len := extract_of_and_eq hw hm
  have ha : aField w &&& aField r.mask = aField r.pattern := extract_and_eq hw
  have hb : bField w &&& bField r.mask = bField r.pattern := extract_and_eq hw
  simp only [opcodeRows, List.mem_cons, List.not_mem_nil, or_false] at hr
  rcases hr with rfl | rfl | rfl | rfl | rfl | rfl | rfl | rfl | rfl | rfl | rfl | rfl
  · exact ⟨_, decodeWord_init (field rfl), rfl⟩
  · exact ⟨_, decodeWord_setcal (field rfl), rfl⟩
  · exact ⟨_, decodeWord_wrcode (field rfl) (field rfl), rfl⟩
  · exact ⟨_, decodeWord_wrcur (field rfl), rfl⟩
  · exact ⟨_, decodeWord_persist (field rfl) (field rfl) (field rfl), rfl⟩
  · exact ⟨_, decodeWord_cvtc2i (field rfl) (field rfl), rfl⟩
  · exact ⟨_, decodeWord_cvti2c (field rfl), rfl⟩
  · exact ⟨_, decodeWord_start (field rfl) (field rfl) (field rfl), rfl⟩
  · exact ⟨_, decodeWord_stop (field rfl) (field rfl) (field rfl), rfl⟩
  · have hack : ackField w = true := getLsbD_of_and_eq ha rfl
    have hz : zeroOkX w = true := (zeroOkX_iff w).mpr
      ⟨extract_of_and_eq ha rfl, extract_of_and_eq ha rfl, extract_of_and_eq hb rfl, by simp [hack]⟩
    exact ⟨_, decodeWord_xferAck (field rfl) hack hz, rfl⟩
  · have hack : ackField w = false := getLsbD_of_and_eq ha rfl
    have hexp : expField w = false := getLsbD_of_and_eq ha rfl
    have hz : zeroOkX w = true := (zeroOkX_iff w).mpr
      ⟨extract_of_and_eq ha rfl, extract_of_and_eq ha rfl, extract_of_and_eq hb rfl, fun _ => hexp⟩
    exact ⟨_, decodeWord_xferNoack (field rfl) hack hz, rfl⟩
  · have hz : zeroOkA w = true := (zeroOkA_iff w).mpr
      ⟨extract_of_and_eq ha rfl, extract_of_and_eq ha rfl, field rfl⟩
    exact ⟨_, decodeWord_ackrd (field rfl) hz, rfl⟩

/-- Settles O4: a word that no row accepts is not decoded, because a decoded word is the encoding of its command and lies
in that command's row. -/
theorem wordsDecodeExactlyByTheTable : Obligations.WordsDecodeExactlyByTheTable := by
  refine ⟨rfl, fun w => ⟨fun r hr r' hr' h h' => rows_disjoint r hr r' hr' (patterns_agree h h'),
    fun r hr h => decodes_of_accepts hr h, fun hnone => ?_⟩⟩
  cases hdec : decodeWord w with
  | error e => exact ⟨e, rfl⟩
  | ok i =>
    obtain ⟨hwf, hw⟩ := spelled_decodeWord w i hdec
    obtain ⟨r, hr, -, hacc⟩ := encodesItsRow i hwf
    rw [hw, hnone r hr] at hacc
    cases hacc

/-! ### The assembler line (30_encoding.md R52) -/

theorem asmUnsigned_toNat {n : Nat} (v : BitVec n) : asmUnsigned n v.toNat = some v := by
  have h : (v.toNat : Int) < 2 ^ n := by exact_mod_cast v.isLt
  simp [asmUnsigned, h]

theorem asmSigned_toInt {n : Nat} (v : BitVec (n + 1)) : asmSigned n v.toInt = some v := by
  have hlo : -(2 ^ n) ≤ v.toInt := by simpa using v.le_toInt
  have hhi : v.toInt < 2 ^ n := by simpa using v.toInt_lt
  simp [asmSigned, hlo, hhi]

theorem asmLevel_toNat (v : Level) : asmLevel v.toNat = some v := by cases v <;> rfl

theorem asmWidth_of_widthOk {n : Nat} (h : widthOk n = true) : asmWidth n = some n := by
  obtain ⟨h1, h8⟩ : 1 ≤ n ∧ n ≤ 8 := by simpa [widthOk] using h
  simp [asmWidth, h1, h8]

/-- Settles O5: each operand is in the range in which its field reads it back. -/
theorem assembledLineIsTheCommand : Obligations.AssembledLineIsTheCommand := by
  intro i h
  cases i with
  | init | wrcur | cvti2c => simp [disassemble, assemble, asmSigned_toInt]
  | setcal | wrcode | cvtc2i => simp [disassemble, assemble, asmUnsigned_toNat]
  | xferAck => simp [disassemble, assemble, asmUnsigned_toNat, asmWidth_of_widthOk h, asmLevel_toNat]
  | xferNoack => simp [disassemble, assemble, asmUnsigned_toNat, asmWidth_of_widthOk h]
  | ackrd => simp [disassemble, assemble, asmLevel_toNat]
  | persist | start | stop => rfl

/-! ### What a receiver sees of a frame (30_encoding.md R54, 20_memory.md R32, R40) -/

/-- Both lines driven, the clock low: the pin state between the bits of a frame. -/
def clockLow (d : Level) : Pins := ⟨.out, false, .out, d⟩

/-- The bus is idle: both lines driven high. -/
def idleBus : Pins := ⟨.out, true, .out, true⟩

section
variable (rel : Released)

@[simp] theorem marks_nil (p : Pins) : marks rel p [] = [] := rfl

@[simp] theorem marks_cons (p : Pins) (e : Event) (rest : List Event) :
    marks rel p (e :: rest) = marksBetween rel p (pinsAfter p e) ++ marks rel (pinsAfter p e) rest := rfl

theorem marks_append (p : Pins) (xs ys : List Event) :
    marks rel p (xs ++ ys) = marks rel p xs ++ marks rel (pinsAfterAll p xs) ys := by
  induction xs generalizing p with
  | nil => rfl
  | cons e rest ih => simp [ih]

@[simp] theorem marksBetween_self (p : Pins) : marksBetween rel p p = [] := by
  unfold marksBetween
  cases sclLevel rel p <;> cases sdaLevel rel p <;> rfl

/-- A rising clock shows the level of the data line. -/
theorem marksBetween_rise {p q : Pins} (hp : sclLevel rel p = false) (hq : sclLevel rel q = true) :
    marksBetween rel p q = [.clock (sdaLevel rel q)] := by
  simp [marksBetween, hp, hq]

/-- What leads to a low clock shows nothing. -/
theorem marksBetween_low {p q : Pins} (hq : sclLevel rel q = false) : marksBetween rel p q = [] := by
  unfold marksBetween
  rw [hq]
  cases sclLevel rel p <;> rfl

/-- From any level of the data line between two bits, the events put `ms` on the bus and lead between two bits again. -/
def ClocksLow (evs : List Event) (ms : List Mark) : Prop :=
  ∀ d, marks rel (clockLow d) evs = ms ∧ ∃ d', pinsAfterAll (clockLow d) evs = clockLow d'

variable {rel}

theorem ClocksLow.nil : ClocksLow rel [] [] := fun d => ⟨rfl, d, rfl⟩

theorem ClocksLow.append {xs ys : List Event} {ms ns : List Mark} (h : ClocksLow rel xs ms) (k : ClocksLow rel ys ns) :
    ClocksLow rel (xs ++ ys) (ms ++ ns) := by
  intro d
  obtain ⟨hx, d', hd⟩ := h d
  obtain ⟨hy, d'', hd'⟩ := k d'
  exact ⟨by rw [marks_append, hd, hx, hy], d'', by rw [pinsAfterAll_append, hd, hd']⟩

variable (p : Params)

/-- The data line changes while the clock is low, so a bit cycle shows its clock alone. -/
theorem traceBit_clocksLow (v : Level) : ClocksLow rel (traceBit p v) [.clock v] := fun d =>
  ⟨by simp [traceBit, traceHold, clockLow, pinsAfter, marksBetween_rise, marksBetween_low, sclLevel, sdaLevel], v, rfl⟩

theorem traceBits_clocksLow (data : Byte) (n : Nat) : ClocksLow rel (traceBits p data n) (marksOfBits data n) := by
  unfold traceBits marksOfBits
  induction (List.range n).reverse with
  | nil => exact .nil
  | cons j rest ih => exact (traceBit_clocksLow p (data.getLsbD j)).append ih

variable {p}

/-- The poll samples and waits, so nothing happens on the bus. -/
theorem marks_traceMisses (exp : Level) (k : Nat) (q : Pins) : marks rel q (traceMisses p exp k) = [] := by
  induction k with
  | zero => rfl
  | succ k ih => simp [traceMisses_succ, traceHold, pinsAfter, ih]

theorem marks_pollTrace {exp : Level} {poll : List Event} (h : PollTrace p exp poll) (q : Pins) :
    marks rel q poll = [] := by
  rcases h with ⟨k, -, rfl⟩ | rfl
  · simp [marks_append, marks_traceMisses, pinsAfter]
  · exact marks_traceMisses exp _ q

/-- An acknowledgment read shows one clock, with the level of the released data line. -/
theorem ackTrace_clocksLow {exp r : Level} {evs : List Event} (h : AckTrace p exp evs r) :
    ClocksLow rel evs [.clock rel.sda] := by
  obtain ⟨poll, hpoll, rfl⟩ := h
  intro d
  obtain ⟨-, hpins⟩ := pollTrace_released hpoll (p := ⟨.out, true, .inPu, d⟩) rfl
  constructor
  · simp [traceAck, traceHold, marks_append, marks_pollTrace hpoll, hpins, clockLow, pinsAfter, marksBetween_rise,
      marksBetween_low, sclLevel, sdaLevel]
  · exact ⟨d, by simp [traceAck, traceHold, hpins, clockLow, pinsAfter]⟩

theorem unitTrace_clocksLow {v : Byte} {n : Nat} {exp r : Level} {evs : List Event} (h : UnitTrace p v n exp evs r) :
    ClocksLow rel evs (marksOfBits v n ++ [.clock rel.sda]) := by
  obtain ⟨ack, hack, rfl⟩ := h
  exact (traceBits_clocksLow p v n).append (ackTrace_clocksLow hack)

theorem bytesTrace_clocksLow {exp : Level} {vs : List Byte} {evs : List Event} (h : BytesTrace p exp vs evs) :
    ClocksLow rel evs (vs.flatMap (marksOfByte rel)) := by
  induction vs generalizing evs with
  | nil =>
    obtain rfl : evs = [] := h
    exact .nil
  | cons v rest ih =>
    obtain ⟨r, here, after, hunit, hbytes, rfl⟩ := h
    exact (unitTrace_clocksLow hunit).append (ih hbytes)

variable (p)

theorem traceS_idleBus :
    marks rel idleBus (traceS p) = [.startEdge] ∧ pinsAfterAll idleBus (traceS p) = clockLow false := ⟨rfl, rfl⟩

theorem traceP_clockLow (d : Level) :
    marks rel (clockLow d) (traceP p) = [.clock false, .stopEdge] ∧ pinsAfterAll (clockLow d) (traceP p) = idleBus :=
  ⟨rfl, rfl⟩

variable {p}

/-- A frame of bytes on an idle bus, which it leaves idle. -/
theorem frameTrace_idleBus {exp : Level} {vs : List Byte} {evs : List Event} (h : FrameTrace p exp vs evs) :
    marks rel idleBus evs = marksOfFrame rel vs ∧ pinsAfterAll idleBus evs = idleBus := by
  obtain ⟨bytes, hbytes, rfl⟩ := h
  obtain ⟨hms, d, hd⟩ := bytesTrace_clocksLow (rel := rel) hbytes false
  obtain ⟨hS, hS'⟩ := traceS_idleBus (rel := rel) p
  obtain ⟨hP, hP'⟩ := traceP_clockLow (rel := rel) p d
  constructor
  · simp [marks_append, hS, hS', hms, hd, hP, marksOfFrame]
  · simp [hS', hd, hP']

end

theorem low12_toNat_of_le {code : BitVec 16} (h : code.toNat ≤ 4095) : (low12 code).toNat = code.toNat := by
  rw [low12_toNat, Nat.mod_eq_of_lt (by omega)]

/-- WRCODE of a code in range, in READY: the frame of its four bytes between the writes of `last_code` and `res`. -/
theorem exec_wrcode_of_le {s : State} {code : BitVec 16} (hst : s.st = .ready) (hcode : code.toNat ≤ 4095) :
    ∃ u evs, exec (.wrcode code) s = .next (setRes (currentResult s (low12 code)) u) ∧
      FrameTrace s.params s.params.ackLevel
        [addrByte s.params, s.params.regSelect, codeLowByte (low12 code), codeHighByte (low12 code)] evs ∧
      Runs { s with lastCode := low12 code } u evs := by
  obtain ⟨evs, hframe, hr⟩ := bytesFrame_spec
    [addrByte s.params, s.params.regSelect, codeLowByte (low12 code), codeHighByte (low12 code)] s.params.ackLevel
    { s with lastCode := low12 code }
  refine ⟨_, evs, (next_guarded_of_eq hst).trans ?_, hframe, hr⟩
  rw [wrcodeBody, if_pos ((codeOk_iff code).mpr hcode), writeCode, writeFrame_eq]

/-- Settles O46: the write frame is a frame of four bytes, and neither `last_code` nor `res` is on the bus. -/
theorem writeFrameOnTheBus : Obligations.WriteFrameOnTheBus := by
  intro s code rel hst hcode hpins
  obtain ⟨u, evs, hx, hframe, hr⟩ := exec_wrcode_of_le hst hcode
  obtain ⟨hmarks, hidle⟩ := frameTrace_idleBus (rel := rel) hframe
  have hpins' : pinsOf u = pinsAfterAll (pinsOf s) evs := hr.pins
  rw [addrByte_eq, codeLowByte_eq, codeHighByte_eq, low12_toNat_of_le hcode] at hmarks
  rw [hpins] at hpins' ⊢
  exact ⟨_, evs, hx, hr.emits, hmarks, hpins'.trans hidle⟩

end Sys2Proof.Proofs
end

section
/-! PROOFS. The family of 40_bus_primitives.md: a command in flight ends (R80), no command releases or samples the clock
line (R79), the primitives as commands (R67 to R78), and how much a command can emit (R80; 70_reset_and_hazards.md
R152). The end of a flight rests on `stepsLeft`, which every small step makes smaller; the acknowledgment read on what
its poll does to the counter; the bounds on `Within`, which counts acknowledgment reads and the other events. -/

namespace Sys2Proof.Proofs

open Sys2Proof.Machine

/-! ### A command in flight ends (40_bus_primitives.md R80) -/

/-- How many small steps a list can still take, its end included. A poll that has begun has only the rest of its bound
left, which `opCost` does not count on. -/
def stepsLeft (s : State) (ops : List MicroOp) : Nat :=
  match ops with
  | .poll _ :: rest => 2 * (s.params.ackPollMax - s.pollCnt) + 1 + opsCost s.params rest
  | .pollWait _ :: rest => 2 * (s.params.ackPollMax - (s.pollCnt + 1)) + 2 + opsCost s.params rest
  | ops => opsCost s.params ops

theorem stepsLeft_poll (s : State) (exp : Level) (rest : List MicroOp) :
    stepsLeft s (.poll exp :: rest) = 2 * (s.params.ackPollMax - s.pollCnt) + 1 + opsCost s.params rest := rfl

theorem stepsLeft_pollWait (s : State) (exp : Level) (rest : List MicroOp) :
    stepsLeft s (.pollWait exp :: rest) = 2 * (s.params.ackPollMax - (s.pollCnt + 1)) + 2 + opsCost s.params rest := rfl

theorem stepsLeft_le_opsCost (s : State) (ops : List MicroOp) : stepsLeft s ops ≤ opsCost s.params ops := by
  cases ops with
  | nil => exact le_rfl
  | cons op rest =>
    cases op with
    | emit | clearPoll | finalSample => exact le_rfl
    | poll exp =>
      rw [stepsLeft_poll, opsCost, opCost]
      omega
    | pollWait exp =>
      rw [stepsLeft_pollWait, opsCost, opCost]
      omega

/-- An entry that one step takes off the list. -/
theorem stepsLeft_lt_of_rest {s t : State} {ops rest : List MicroOp} (hp : t.params = s.params)
    (h : opsCost s.params rest < stepsLeft s ops) : stepsLeft t rest < stepsLeft s ops := by
  rw [← hp] at h
  exact (stepsLeft_le_opsCost t rest).trans_lt h

theorem emitEvent_params (e : Event) (s : State) : (emitEvent e s).params = s.params := by
  obtain ⟨evs, h⟩ := runs_emitEvent e s
  exact h.params

/-- A small step inside a command leaves a flight that has fewer of them left. -/
theorem advance_stepsLeft_lt {f : Flight} {op : MicroOp} {rest : List MicroOp} (h : f.todo = op :: rest) (s : State) :
    ∃ g, (advance f s).seq = .running g ∧ stepsLeft (advance f s) g.todo < stepsLeft s f.todo := by
  obtain ⟨cmd, index, todo, ack⟩ := f
  obtain rfl : todo = op :: rest := h
  have hone : opsCost s.params rest < 1 + opsCost s.params rest := by omega
  cases op with
  | emit e => exact ⟨_, rfl, stepsLeft_lt_of_rest (emitEvent_params e s) hone⟩
  | clearPoll => exact ⟨_, rfl, stepsLeft_lt_of_rest (t := { s with pollCnt := 0 }) rfl hone⟩
  | finalSample => exact ⟨_, rfl, stepsLeft_lt_of_rest (sampleSda_params s) hone⟩
  | poll exp =>
    have hpoll : opsCost s.params rest < stepsLeft s (.poll exp :: rest) := by
      rw [stepsLeft_poll]
      omega
    by_cases hlt : s.pollCnt < s.params.ackPollMax
    · by_cases hm : nextLevel s = exp
      · simp only [advance, if_pos hlt, if_pos hm]
        exact ⟨_, rfl, stepsLeft_lt_of_rest (sampleSda_params s) hpoll⟩
      · simp only [advance, if_pos hlt, if_neg hm]
        refine ⟨_, rfl, ?_⟩
        simp only [stepsLeft, sampleSda_params, sampleSda_pollCnt]
        omega
    · simp only [advance, if_neg hlt]
      exact ⟨_, rfl, stepsLeft_lt_of_rest (t := s) rfl hpoll⟩
  | pollWait exp =>
    refine ⟨_, rfl, ?_⟩
    simp only [advance, stepsLeft, hold_params]
    omega

/-- With as many steps as its list can take, a command in flight ends. -/
theorem advances_ends (n : Nat) {f : Flight} {s : State} (hseq : s.seq = .running f) (hn : stepsLeft s f.todo ≤ n) :
    (advances n s).busy = false ∧ (advances n s).seq = .idle := by
  induction n generalizing f s with
  | zero =>
    cases h : f.todo with
    | nil => simp [h, stepsLeft, opsCost] at hn
    | cons op rest =>
      obtain ⟨g, -, hlt⟩ := advance_stepsLeft_lt h s
      omega
  | succ n ih =>
    simp only [advances, hseq]
    cases h : f.todo with
    | nil =>
      rw [advance_of_nil h]
      cases n <;> exact ⟨rfl, rfl⟩
    | cons op rest =>
      obtain ⟨g, hg, hlt⟩ := advance_stepsLeft_lt h s
      exact ih hg (by omega)

/-- Settles O15: the step takes as many small steps as the list can cost, and each makes what is left smaller. -/
theorem commandInFlightEnds : Obligations.CommandInFlightEnds := by
  intro s f hrst hseq
  exact ⟨finish f s, step_of_running hrst hseq, advances_ends _ hseq (stepsLeft_le_opsCost s f.todo)⟩

/-! ### The clock line (40_bus_primitives.md R79) -/

/-- The event neither puts the clock line in input mode nor samples it. -/
def SparesClock (e : Event) : Prop := e ≠ .mode .scl .inPu ∧ ∀ v, e ≠ .sample .scl v

theorem LeavesDriven.sparesClock {e : Event} (h : LeavesDriven e) : SparesClock e := by
  obtain ⟨hsample, hmode⟩ := h
  exact ⟨hmode .scl, fun v he => by simp [he, isSample] at hsample⟩

theorem traceMisses_sparesClock (p : Params) (exp : Level) (k : Nat) : ∀ e ∈ traceMisses p exp k, SparesClock e := by
  simp +contextual [traceMisses, traceHold, SparesClock, or_imp]

theorem pollTrace_sparesClock {p : Params} {exp : Level} {poll : List Event} (h : PollTrace p exp poll) :
    ∀ e ∈ poll, SparesClock e := by
  rcases h with ⟨k, -, rfl⟩ | rfl
  · exact List.forall_mem_append.mpr ⟨traceMisses_sparesClock p exp k, by simp [SparesClock]⟩
  · exact traceMisses_sparesClock p exp _

theorem ackTrace_sparesClock {p : Params} {exp r : Level} {evs : List Event} (h : AckTrace p exp evs r) :
    ∀ e ∈ evs, SparesClock e := by
  obtain ⟨poll, hpoll, rfl⟩ := h
  refine List.forall_mem_append.mpr ⟨List.forall_mem_append.mpr ⟨?_, pollTrace_sparesClock hpoll⟩, ?_⟩ <;>
    simp [SparesClock, traceHold]

theorem BusEvents.sparesClock {p : Params} {evs : List Event} (h : BusEvents p evs) : ∀ e ∈ evs, SparesClock e := by
  induction h with
  | nil => exact nofun
  | cons he _ ih => exact List.forall_mem_cons.mpr ⟨he.sparesClock, ih⟩
  | ack ha _ ih => exact List.forall_mem_append.mpr ⟨ackTrace_sparesClock ha, ih⟩

/-- Settles O24: an acknowledgment read releases and samples the data line only, and no other event does either. -/
theorem clockLineIsNeverReleasedOrSampled : Obligations.ClockLineIsNeverReleasedOrSampled := by
  intro i s t h
  obtain ⟨evs, hbus, hemit⟩ := exec_emitsBus h
  exact ⟨evs, hemit, hbus.sparesClock⟩

/-! ### What a run of events leaves (40_bus_primitives.md R67 to R78) -/

theorem lines_of_runs {s t : State} {evs : List Event} {q : Pins} (h : Runs s t evs)
    (hq : pinsAfterAll (pinsOf s) evs = q) :
    t.sclMode = q.sclMode ∧ t.sclOut = q.sclOut ∧ t.sdaMode = q.sdaMode ∧ t.sdaOut = q.sdaOut := by
  subst hq
  exact ⟨congrArg Pins.sclMode h.pins, congrArg Pins.sclOut h.pins, congrArg Pins.sdaMode h.pins,
    congrArg Pins.sdaOut h.pins⟩

/-- Events that leave the clock line's direction, then a result. -/
theorem busFrame_of_runs {s t : State} {evs : List Event} (h : Runs s t evs) (hclock : t.sclMode = s.sclMode)
    (v : BitVec 32) : BusFrame s (setRes v t) :=
  ⟨⟨h.busy, h.seq, h.rst, h.words, h.params⟩, ⟨h.pinScl, h.pinSda, hclock⟩, ⟨h.calEn, h.calLo, h.calHi⟩, h.st,
    h.lastCode⟩

/-- Events without a sample leave the environment where it is. -/
theorem environment_of_runs {s t : State} {evs : List Event} (h : Runs s t evs) (hn : sampleCount evs = 0) :
    t.levels = s.levels ∧ t.draws = s.draws := by
  simp [h.levels, h.draws, hn]

/-! ### START and STOP (40_bus_primitives.md R67, R68) -/

theorem startCond_pollCnt (s : State) : (startCond s).pollCnt = s.pollCnt := by simp [startCond]

theorem stopCond_pollCnt (s : State) : (stopCond s).pollCnt = s.pollCnt := by simp [stopCond]

/-- Settles O26: the start condition is its trace, and the command adds the result. -/
theorem startConditionEvents : Obligations.StartConditionEvents := by
  intro s hst
  have hr := runs_startCond s
  obtain ⟨hclock, hscl, hmode, hsda⟩ := lines_of_runs hr rfl
  obtain ⟨hlevels, hdraws⟩ := environment_of_runs hr rfl
  exact ⟨_, next_guarded_of_eq hst, hr.emits, hsda, hscl, hmode, rfl, startCond_pollCnt s, hlevels, hdraws,
    busFrame_of_runs hr hclock 0⟩

/-- Settles O27: the stop condition is its trace, and the command adds the result. -/
theorem stopConditionEvents : Obligations.StopConditionEvents := by
  intro s hst
  have hr := runs_stopCond s
  obtain ⟨hclock, hscl, hmode, hsda⟩ := lines_of_runs hr rfl
  obtain ⟨hlevels, hdraws⟩ := environment_of_runs hr rfl
  exact ⟨_, next_guarded_of_eq hst, hr.emits, hsda, hscl, hmode, rfl, stopCond_pollCnt s, hlevels, hdraws,
    busFrame_of_runs hr hclock 0⟩

/-! ### Units (40_bus_primitives.md R69 to R71) -/

theorem traceBits_succ (p : Params) (data : Byte) (n : Nat) :
    traceBits p data (n + 1) = traceBit p (data.getLsbD n) ++ traceBits p data n := by
  simp [traceBits, List.range_succ]

theorem sampleCount_traceBits (p : Params) (data : Byte) (n : Nat) : sampleCount (traceBits p data n) = 0 := by
  induction n with
  | zero => rfl
  | succ n ih =>
    rw [traceBits_succ, sampleCount_append, ih]
    rfl

theorem length_traceBits (p : Params) (data : Byte) (n : Nat) : (traceBits p data n).length = 6 * n := by
  induction n with
  | zero => rfl
  | succ n ih =>
    rw [traceBits_succ, List.length_append, ih]
    simp [traceBit]
    omega

/-- The last bit of a unit stays on the data line, with the clock low. -/
theorem pinsAfterAll_traceBits (p : Params) (data : Byte) {n : Nat} (hn : 1 ≤ n) (q : Pins) :
    pinsAfterAll q (traceBits p data n) = { q with sclOut := false, sdaOut := data.getLsbD 0 } := by
  induction n, hn using Nat.le_induction generalizing q with
  | base => rfl
  | succ n _ ih =>
    rw [traceBits_succ, pinsAfterAll_append, ih]
    rfl

/-- An acknowledgment read leaves the clock low and the data line driven, its latch as it was. -/
theorem pinsAfterAll_ackTrace {p : Params} {exp r : Level} {evs : List Event} (h : AckTrace p exp evs r) (q : Pins) :
    pinsAfterAll q evs = { q with sclOut := false, sdaMode := .out } := by
  obtain ⟨poll, hpoll, rfl⟩ := h
  obtain ⟨-, hpins⟩ := pollTrace_released hpoll (p := ⟨q.sclMode, true, .inPu, q.sdaOut⟩) rfl
  simp [traceAck, traceHold, pinsAfter, hpins]

theorem bitCycle_pollCnt (v : Level) (s : State) : (bitCycle v s).pollCnt = s.pollCnt := by simp [bitCycle]

theorem sendBits_pollCnt (bits : List Level) (s : State) : (sendBits bits s).pollCnt = s.pollCnt := by
  induction bits generalizing s with
  | nil => rfl
  | cons v rest ih => rw [sendBits, ih, bitCycle_pollCnt]

theorem unitNoack_pollCnt (data : Byte) (n : Nat) (s : State) : (unitNoack data n s).pollCnt = s.pollCnt := by
  simp [unitNoack, noAckTail, sendBits_pollCnt]

/-- Settles O28: a unit is its bit cycles and then an acknowledgment trace, or the tail. -/
theorem unitTransfer : Obligations.UnitTransfer := by
  intro s data n hst hn _
  constructor
  · intro exp
    obtain ⟨_, ⟨evs, hack, rfl⟩, hr⟩ := unitAck_spec data n exp s
    have hpins : pinsAfterAll (pinsOf s) (traceBits s.params data n ++ evs) =
        ⟨s.sclMode, false, .out, data.getLsbD 0⟩ := by
      rw [pinsAfterAll_append, pinsAfterAll_traceBits _ _ hn, pinsAfterAll_ackTrace hack, pinsOf]
    obtain ⟨hclock, hscl, hmode, hsda⟩ := lines_of_runs hr hpins
    exact ⟨_, evs, _, next_guarded_of_eq hst, hack, hr.emits.trans (List.append_assoc _ _ _).symm, hsda, hscl, hmode,
      rfl, busFrame_of_runs hr hclock _⟩
  · have hr := runs_unitNoack data n s
    have hpins : pinsAfterAll (pinsOf s) (traceBits s.params data n ++ traceT s.params) =
        ⟨s.sclMode, true, s.sdaMode, s.params.noackSdaLevel⟩ := by
      rw [pinsAfterAll_append, pinsAfterAll_traceBits _ _ hn]
      rfl
    obtain ⟨hclock, hscl, hmode, hsda⟩ := lines_of_runs hr hpins
    obtain ⟨hlevels, hdraws⟩ := environment_of_runs hr (by rw [sampleCount_append, sampleCount_traceBits]; rfl)
    exact ⟨_, next_guarded_of_eq hst, hr.emits.trans (List.append_assoc _ _ _).symm, hsda, hscl, hmode, rfl,
      unitNoack_pollCnt data n s, hlevels, hdraws, busFrame_of_runs hr hclock 0⟩

/-! ### The acknowledgment read (40_bus_primitives.md R73 to R78) -/

theorem levels_traceMisses (p : Params) (exp : Level) (k : Nat) :
    (traceMisses p exp k).filterMap levelOf = List.replicate k (!exp) := by
  induction k with
  | zero => rfl
  | succ k ih =>
    rw [traceMisses_succ, List.filterMap_append, ih]
    rfl

theorem runs_clearPoll (s : State) : Runs s { s with pollCnt := 0 } [] := (Runs.refl s).setPollCnt 0

/-- A poll counts the samples that differ. -/
theorem pollPhase_counts (exp : Level) (s : State) :
    ∃ poll, PollTrace s.params exp poll ∧ Runs s (pollPhase exp s) poll ∧
      (pollPhase exp s).pollCnt = (poll.filterMap levelOf).count (!exp) := by
  rcases pollLoop_spec exp s.params.ackPollMax { s with pollCnt := 0 } (Nat.zero_add _) with
    ⟨k, hk, hcnt, hr⟩ | ⟨hcnt, hr⟩
  · exact ⟨_, .inl ⟨k, hk, rfl⟩, (runs_clearPoll s).trans hr, hcnt.trans (by simp [levels_traceMisses, levelOf])⟩
  · exact ⟨_, .inr rfl, (runs_clearPoll s).trans hr, hcnt.trans (by simp [levels_traceMisses])⟩

/-- The four phases of a read, around the events of its poll. -/
theorem runs_ackRead {exp : Level} {s : State} {poll : List Event}
    (hpoll : Runs (releasePhase s) (pollPhase exp (releasePhase s)) poll) :
    Runs s (ackRead exp s).2 (traceAck s.params poll (ackRead exp s).1) := by
  have release := runs_releasePhase s
  have final := runs_sampleSda (pollPhase exp (releasePhase s))
  have restore := runs_restorePhase (sampleSda (pollPhase exp (releasePhase s)))
  simpa [traceAck, ackRead] using ((release.trans hpoll).trans final).trans restore

/-- Only the poll writes the counter. -/
theorem ackRead_pollCnt (exp : Level) (s : State) :
    (ackRead exp s).2.pollCnt = (pollPhase exp (releasePhase s)).pollCnt := by
  simp [ackRead, restorePhase]

/-- ACKRD in READY. -/
theorem exec_ackrd {exp : Level} {s : State} (hst : s.st = .ready) :
    exec (.ackrd exp) s = .next (setRes (levelResult (ackRead exp s).1) (ackRead exp s).2) :=
  next_guarded_of_eq hst

/-- Settles O29: the read is its four phases, and only the poll writes the counter. -/
theorem ackReadReleasesPollsSamplesRestores : Obligations.AckReadReleasesPollsSamplesRestores := by
  intro s exp hst
  obtain ⟨poll, hpoll, hphase, hcnt⟩ := pollPhase_counts exp (releasePhase s)
  rw [releasePhase_params] at hpoll
  have hr := runs_ackRead hphase
  obtain ⟨hclock, hscl, hmode, hsda⟩ := lines_of_runs hr (pinsAfterAll_ackTrace ⟨poll, hpoll, rfl⟩ _)
  exact ⟨_, poll, _, exec_ackrd hst, hpoll, hr.emits.trans (by simp [traceAck, traceHold]),
    (ackRead_pollCnt exp s).trans hcnt, hsda, hscl, hmode, rfl,
    busFrame_of_runs hr hclock _⟩

theorem sampleCount_traceMisses (p : Params) (exp : Level) (k : Nat) : sampleCount (traceMisses p exp k) = k := by
  induction k with
  | zero => rfl
  | succ k ih =>
    rw [traceMisses_succ, sampleCount_append, ih]
    exact Nat.add_comm 1 k

theorem length_traceMisses (p : Params) (exp : Level) (k : Nat) : (traceMisses p exp k).length = 2 * k := by
  simp [traceMisses, Nat.mul_comm]

theorem sampleCount_traceAck (p : Params) (poll : List Event) (r : Level) :
    sampleCount (traceAck p poll r) = sampleCount poll + 1 := by
  simp [traceAck, traceHold, sampleCount, List.countP_cons, isSample]

/-- As long as the levels differ the poll goes on, each costing a sample and a wait. -/
theorem pollLoop_misses (exp : Level) (ls : List Level) (k fuel : Nat) (s : State)
    (hmax : s.pollCnt + k ≤ s.params.ackPollMax) (hlevels : s.levels = List.replicate k (!exp) ++ ls) :
    ∃ u, pollLoop exp (k + fuel) s = pollLoop exp fuel u ∧ u.pollCnt = s.pollCnt + k ∧ u.levels = ls ∧
      Runs s u (traceMisses s.params exp k) := by
  induction k generalizing s with
  | zero => exact ⟨s, by rw [Nat.zero_add], rfl, hlevels, Runs.refl s⟩
  | succ k ih =>
    have hlt : s.pollCnt < s.params.ackPollMax := by omega
    have hnext : nextLevel s = !exp := by simp [nextLevel, hlevels, List.replicate_succ]
    have hmiss : nextLevel s ≠ exp := by simp [hnext]
    obtain ⟨u, hu, hcnt, hls, hr⟩ :=
      ih { hold s.params.holds.poll (sampleSda s) with pollCnt := s.pollCnt + 1 } (by simp; omega)
        (by simp [hlevels, List.replicate_succ])
    have first := ((runs_sampleSda s).trans (runs_hold s.params.holds.poll (sampleSda s))).setPollCnt (s.pollCnt + 1)
    rw [hnext] at first
    refine ⟨u, ?_, hcnt.trans (by simp; omega), hls, ?_⟩
    · rw [Nat.succ_add, pollLoop, if_pos hlt, if_neg hmiss]
      exact hu
    · rw [traceMisses_succ]
      exact first.trans hr

theorem pollPhase_of_match {exp : Level} {k : Nat} {ls : List Level} {s : State} (hk : k < s.params.ackPollMax)
    (hlevels : s.levels = List.replicate k (!exp) ++ exp :: ls) :
    Runs s (pollPhase exp s) (traceMisses s.params exp k ++ [Event.sample .sda exp]) ∧ (pollPhase exp s).pollCnt = k ∧
      (pollPhase exp s).levels = ls := by
  obtain ⟨m, hm⟩ : ∃ m, s.params.ackPollMax = k + (m + 1) := ⟨s.params.ackPollMax - k - 1, by omega⟩
  obtain ⟨u, hu, hcnt, hls, hr⟩ := pollLoop_misses exp (exp :: ls) k (m + 1) { s with pollCnt := 0 }
    (by simp; omega) hlevels
  have hnext : nextLevel u = exp := by simp [nextLevel, hls]
  have hlt : u.pollCnt < u.params.ackPollMax := by
    rw [hcnt, hr.params]
    simpa using hk
  have hphase : pollPhase exp s = sampleSda u := by
    rw [pollPhase, hm, hu, pollLoop, if_pos hlt, if_pos hnext]
  have last := runs_sampleSda u
  rw [hnext] at last
  rw [hphase]
  exact ⟨((runs_clearPoll s).trans hr).trans last, hcnt.trans (Nat.zero_add k), by simp [hls]⟩

theorem pollPhase_of_timeout {exp : Level} {ls : List Level} {s : State}
    (hlevels : s.levels = List.replicate s.params.ackPollMax (!exp) ++ ls) :
    Runs s (pollPhase exp s) (traceMisses s.params exp s.params.ackPollMax) ∧
      (pollPhase exp s).pollCnt = s.params.ackPollMax ∧ (pollPhase exp s).levels = ls := by
  obtain ⟨u, hu, hcnt, hls, hr⟩ := pollLoop_misses exp ls s.params.ackPollMax 0 { s with pollCnt := 0 }
    (by simp) hlevels
  have hphase : pollPhase exp s = u := hu
  rw [hphase]
  exact ⟨(runs_clearPoll s).trans hr, hcnt.trans (Nat.zero_add _), hls⟩

/-- ACKRD in READY, the events of its poll and the level after it being known. -/
theorem exec_ackrd_of_poll {exp r : Level} {s : State} {poll : List Event} {rest : List Level} (hst : s.st = .ready)
    (hpoll : Runs (releasePhase s) (pollPhase exp (releasePhase s)) poll)
    (hlevels : (pollPhase exp (releasePhase s)).levels = r :: rest) :
    ∃ t, exec (.ackrd exp) s = .next t ∧ emitted t = emitted s ++ traceAck s.params poll r ∧
      t.res = BitVec.ofNat 32 r.toNat ∧ t.pollCnt = (pollPhase exp (releasePhase s)).pollCnt ∧ t.levels = rest ∧
      t.draws = s.draws + (sampleCount poll + 1) := by
  have hlevel : (ackRead exp s).1 = r := by simp [ackRead, nextLevel, hlevels]
  have hrest : (ackRead exp s).2.levels = rest := congrArg List.tail hlevels
  have hr := runs_ackRead hpoll
  rw [hlevel] at hr
  have hdraws := hr.draws
  rw [sampleCount_traceAck] at hdraws
  exact ⟨_, exec_ackrd hst, hr.emits, congrArg levelResult hlevel, ackRead_pollCnt exp s, hrest, hdraws⟩

/-- Settles O30: the levels that differ keep the poll going, and the first that matches ends it. -/
theorem ackReadEndsAtTheFirstMatch : Obligations.AckReadEndsAtTheFirstMatch := by
  intro s exp r k rest hst hk hlevels
  obtain ⟨hpoll, hcnt, hls⟩ := pollPhase_of_match (s := releasePhase s) hk hlevels
  obtain ⟨t, hx, hemit, hres, hpc, hrest, hdraws⟩ := exec_ackrd_of_poll hst hpoll hls
  refine ⟨t, hx, hemit, hres, hpc.trans hcnt, hrest, hdraws.trans ?_⟩
  rw [sampleCount_append, sampleCount_traceMisses]
  rfl

/-- Settles O31: when every level of the poll differs the bound ends it, and the read goes on to its final sample. -/
theorem ackReadTimesOutWithoutASignal : Obligations.AckReadTimesOutWithoutASignal := by
  intro s exp r rest hst hlevels
  obtain ⟨hpoll, hcnt, hls⟩ := pollPhase_of_timeout (s := releasePhase s) hlevels
  obtain ⟨t, hx, hemit, hres, hpc, hrest, hdraws⟩ := exec_ackrd_of_poll hst hpoll hls
  refine ⟨t, hx, hemit, hres, hpc.trans hcnt, hrest, hdraws.trans ?_⟩
  rw [sampleCount_traceMisses]
  rfl

/-! ### How much can be emitted (40_bus_primitives.md R77, R80, 70_reset_and_hazards.md R152) -/

theorem pollTrace_size {p : Params} {exp : Level} {poll : List Event} (h : PollTrace p exp poll) :
    poll.length ≤ 2 * p.ackPollMax ∧ sampleCount poll ≤ p.ackPollMax ∧
      (1 ≤ p.ackPollMax → 1 ≤ sampleCount poll) := by
  rcases h with ⟨k, hk, rfl⟩ | rfl
  · have hone : sampleCount [.sample .sda exp] = 1 := rfl
    rw [List.length_append, List.length_singleton, length_traceMisses, sampleCount_append, sampleCount_traceMisses,
      hone]
    omega
  · rw [length_traceMisses, sampleCount_traceMisses]
    omega

/-- Settles O32: a poll takes between 1 and `ACK_POLL_MAX` samples, and the final sample is one more. -/
theorem ackReadSampleCountIsBounded : Obligations.AckReadSampleCountIsBounded := by
  intro s t exp hst hmax h
  obtain rfl : setRes _ (ackRead exp s).2 = t := by injection (exec_ackrd hst).symm.trans h
  obtain ⟨_, ⟨poll, hpoll, rfl⟩, hr⟩ := ackRead_spec exp s
  obtain ⟨-, hle, hpos⟩ := pollTrace_size hpoll
  have hone := hpos hmax
  refine ⟨_, hr.emits, ?_⟩
  rw [sampleCount_traceAck]
  omega

/-- The events are at most `reads` acknowledgment reads that run to the bound, and `plain` events beside them. -/
def Within (p : Params) (plain reads : Nat) (evs : List Event) : Prop :=
  evs.length ≤ plain + reads * (9 + 2 * p.ackPollMax) ∧ sampleCount evs ≤ reads * (p.ackPollMax + 1)

section
variable {p : Params} {a b m n : Nat} {xs ys : List Event}

theorem Within.append (hx : Within p a m xs) (hy : Within p b n ys) : Within p (a + b) (m + n) (xs ++ ys) := by
  obtain ⟨hxl, hxs⟩ := hx
  obtain ⟨hyl, hys⟩ := hy
  rw [Within, List.length_append, sampleCount_append, Nat.add_mul, Nat.add_mul]
  omega

theorem Within.mono (h : Within p a m xs) (hab : a ≤ b) (hmn : m ≤ n) : Within p b n xs := by
  obtain ⟨hl, hs⟩ := h
  exact ⟨hl.trans (Nat.add_le_add hab (Nat.mul_le_mul_right _ hmn)), hs.trans (Nat.mul_le_mul_right _ hmn)⟩

/-- Events without a sample. -/
theorem within_of_length (hl : xs.length = a) (hs : sampleCount xs = 0) : Within p a 0 xs := by
  simp [Within, hl, hs]

theorem within_traceBits (data : Byte) (n : Nat) : Within p (6 * n) 0 (traceBits p data n) :=
  within_of_length (length_traceBits p data n) (sampleCount_traceBits p data n)

theorem within_traceS : Within p 7 0 (traceS p) := within_of_length rfl rfl

theorem within_traceP : Within p 6 0 (traceP p) := within_of_length rfl rfl

theorem within_traceT : Within p 2 0 (traceT p) := within_of_length rfl rfl

theorem within_ackTrace {exp r : Level} (h : AckTrace p exp xs r) : Within p 0 1 xs := by
  obtain ⟨poll, hpoll, rfl⟩ := h
  obtain ⟨hlen, hle, -⟩ := pollTrace_size hpoll
  rw [Within, sampleCount_traceAck]
  simp [traceAck]
  omega

theorem within_unitTrace {data : Byte} {n : Nat} {exp r : Level} (h : UnitTrace p data n exp xs r) :
    Within p (6 * n) 1 xs := by
  obtain ⟨ack, hack, rfl⟩ := h
  simpa using (within_traceBits data n).append (within_ackTrace hack)

theorem within_bytesTrace {exp : Level} {vs : List Byte} (h : BytesTrace p exp vs xs) :
    Within p (48 * vs.length) vs.length xs := by
  induction vs generalizing xs with
  | nil =>
    obtain rfl : xs = [] := h
    exact within_of_length rfl rfl
  | cons v rest ih =>
    obtain ⟨r, here, after, hunit, hbytes, rfl⟩ := h
    exact ((within_unitTrace hunit).append (ih hbytes)).mono (by simp; omega) (by simp; omega)

theorem within_frameTrace {exp : Level} {vs : List Byte} (h : FrameTrace p exp vs xs) :
    Within p (48 * vs.length + 13) vs.length xs := by
  obtain ⟨bytes, hbytes, rfl⟩ := h
  exact ((within_traceS.append (within_bytesTrace hbytes)).append within_traceP).mono (by omega) (by omega)

theorem within_traceHeader : Within p 33 0 (traceHeader p) :=
  ((within_traceS.append (within_traceBits 0x02 3)).append within_traceT).append within_traceP

end

/-- `t` is `s` after so many events at most. -/
def RunsWithin (plain reads : Nat) (s t : State) : Prop := ∃ evs, Within s.params plain reads evs ∧ Runs s t evs

theorem RunsWithin.trans {a b m n : Nat} {s t u : State} (h : RunsWithin a m s t) (k : RunsWithin b n t u) :
    RunsWithin (a + b) (m + n) s u := by
  obtain ⟨xs, hx, hr⟩ := h
  obtain ⟨ys, hy, kr⟩ := k
  rw [hr.params] at hy
  exact ⟨xs ++ ys, hx.append hy, hr.trans kr⟩

theorem runsWithin_event {s t : State} {e : Event} (he : isSample e = false) (h : Runs s t [e]) : RunsWithin 1 0 s t :=
  ⟨_, within_of_length rfl (by simp [sampleCount, he]), h⟩

theorem runsWithin_startCond (s : State) : RunsWithin 7 0 s (startCond s) := ⟨_, within_traceS, runs_startCond s⟩

theorem runsWithin_stopCond (s : State) : RunsWithin 6 0 s (stopCond s) := ⟨_, within_traceP, runs_stopCond s⟩

theorem runsWithin_ackRead (exp : Level) (s : State) : RunsWithin 0 1 s (ackRead exp s).2 := by
  obtain ⟨evs, hack, hr⟩ := ackRead_spec exp s
  exact ⟨evs, within_ackTrace hack, hr⟩

theorem runsWithin_unitAck (data : Byte) (n : Nat) (exp : Level) (s : State) :
    RunsWithin (6 * n) 1 s (unitAck data n exp s).2 := by
  obtain ⟨evs, hunit, hr⟩ := unitAck_spec data n exp s
  exact ⟨evs, within_unitTrace hunit, hr⟩

theorem runsWithin_unitNoack (data : Byte) (n : Nat) (s : State) : RunsWithin (6 * n + 2) 0 s (unitNoack data n s) :=
  ⟨_, (within_traceBits data n).append within_traceT, runs_unitNoack data n s⟩

theorem runsWithin_bytesFrame (vs : List Byte) (exp : Level) (s : State) :
    RunsWithin (48 * vs.length + 13) vs.length s (bytesFrame vs exp s) := by
  obtain ⟨evs, hframe, hr⟩ := bytesFrame_spec vs exp s
  exact ⟨evs, within_frameTrace hframe, hr⟩

theorem runsWithin_headerFrame (s : State) : RunsWithin 33 0 s (headerFrame s) :=
  ⟨_, within_traceHeader, runs_headerFrame s⟩

theorem runsWithin_writeFrame (c : BitVec 12) (s : State) : RunsWithin 205 4 s (writeFrame c s) := by
  rw [writeFrame_eq]
  exact (runsWithin_bytesFrame [_, _, _, _] _ s :)

/-- Two headers, two bytes, nine bytes, the commit wait and two bytes. -/
theorem runsWithin_persistPhases (s : State) : RunsWithin 730 13 s (persistPhases s) :=
  (((((runsWithin_headerFrame s).trans (runsWithin_bytesFrame [Config.pAddr, Config.pCmd1] _ _)).trans
    (runsWithin_bytesFrame (unlockBytes _) _ _)).trans (runsWithin_event rfl (runs_waitMs _ _))).trans
    (runsWithin_headerFrame _)).trans (runsWithin_bytesFrame [Config.pAddr, Config.pCmd2] _ _)

theorem runsWithin_presenceCheck (s : State) : RunsWithin 63 1 s (presenceCheck s).2 :=
  ((((runsWithin_event rfl (runs_setMode .scl .out s)).trans (runsWithin_event rfl (runs_setMode .sda .out _))).trans
    (runsWithin_startCond _)).trans (runsWithin_unitAck _ 8 _ _)).trans (runsWithin_stopCond _)

/-- From `s` to `t` no more is emitted than PERSIST can, whatever else is written. -/
def EmitsWithin (s t : State) : Prop := ∃ evs, Within s.params 730 13 evs ∧ emitted t = emitted s ++ evs

theorem RunsWithin.emitsWithin {a m : Nat} {s t : State} (h : RunsWithin a m s t) (ha : a ≤ 730) (hm : m ≤ 13) :
    EmitsWithin s t := by
  obtain ⟨evs, hw, hr⟩ := h
  exact ⟨evs, hw.mono ha hm, hr.emits⟩

theorem EmitsWithin.setRes {s t : State} (h : EmitsWithin s t) (v : BitVec 32) : EmitsWithin s (setRes v t) := h

theorem emitsWithin_of_emitted_eq {s t : State} (h : emitted t = emitted s) : EmitsWithin s t :=
  ⟨[], (within_of_length rfl rfl).mono (Nat.zero_le _) (Nat.zero_le _), by rw [h, List.append_nil]⟩

theorem emitsWithin_guarded {need : DevState} {body : State → State} {s : State} (h : EmitsWithin s (body s)) :
    EmitsWithin s (guarded need body s) := by
  by_cases hs : s.st = need
  · rwa [guarded_of_eq need body s hs]
  · rw [guarded_of_ne need body s hs]
    exact emitsWithin_of_emitted_eq rfl

theorem emitsWithin_presenceResult (r : Level) {s t : State} (h : EmitsWithin s t) :
    EmitsWithin s (presenceResult r t) := by
  unfold presenceResult
  split
  · exact h
  · exact h.setRes 2

theorem emitsWithin_initBody (x y : BitVec 16) (s : State) : EmitsWithin s (initBody x y s) := by
  unfold initBody
  split
  · exact emitsWithin_presenceResult _
      ((runsWithin_presenceCheck (bindPins x y s)).emitsWithin (by decide) (by decide))
  · exact emitsWithin_of_emitted_eq rfl

theorem emitsWithin_writeCode (c : BitVec 12) (s : State) : EmitsWithin s (writeCode c s) :=
  (runsWithin_writeFrame c { s with lastCode := c }).emitsWithin (by decide) (by decide)

theorem emitsWithin_wrcodeBody (code : BitVec 16) (s : State) : EmitsWithin s (wrcodeBody code s) := by
  unfold wrcodeBody
  split
  · exact (emitsWithin_writeCode (low12 code) s).setRes _
  · exact emitsWithin_of_emitted_eq rfl

theorem le_eight_of_widthOk {n : Nat} (h : widthOk n = true) : n ≤ 8 := by
  simp [widthOk] at h
  exact h.2

/-- Every command that can be encoded gives a next state, and PERSIST can emit the most. -/
theorem exec_emitsWithin {i : Instr} (hwf : i.WellFormed) (s : State) : ∃ t, exec i s = .next t ∧ EmitsWithin s t := by
  cases i with
  | init x y => exact ⟨_, rfl, emitsWithin_guarded (emitsWithin_initBody x y s)⟩
  | setcal lo hi => exact ⟨_, rfl, emitsWithin_of_emitted_eq (by split <;> rfl)⟩
  | wrcode code => exact ⟨_, rfl, emitsWithin_guarded (emitsWithin_wrcodeBody code s)⟩
  | wrcur cur => exact ⟨_, rfl, emitsWithin_guarded ((emitsWithin_writeCode (wrcurCode cur s) s).setRes _)⟩
  | persist => exact ⟨_, rfl, emitsWithin_guarded (((runsWithin_persistPhases s).emitsWithin le_rfl le_rfl).setRes _)⟩
  | cvtc2i | cvti2c => exact ⟨_, rfl, emitsWithin_of_emitted_eq rfl⟩
  | start =>
    exact ⟨_, rfl, emitsWithin_guarded (((runsWithin_startCond s).emitsWithin (by decide) (by decide)).setRes _)⟩
  | stop =>
    exact ⟨_, rfl, emitsWithin_guarded (((runsWithin_stopCond s).emitsWithin (by decide) (by decide)).setRes _)⟩
  | xferAck data n exp =>
    have hn : n ≤ 8 := le_eight_of_widthOk hwf
    exact ⟨_, rfl,
      emitsWithin_guarded (((runsWithin_unitAck data n exp s).emitsWithin (by omega) (by decide)).setRes _)⟩
  | xferNoack data n =>
    have hn : n ≤ 8 := le_eight_of_widthOk hwf
    exact ⟨_, rfl, emitsWithin_guarded (((runsWithin_unitNoack data n s).emitsWithin (by omega) (by decide)).setRes _)⟩
  | ackrd exp =>
    exact ⟨_, rfl, emitsWithin_guarded (((runsWithin_ackRead exp s).emitsWithin (by decide) (by decide)).setRes _)⟩

/-- Settles O52: 730 events and thirteen acknowledgment reads, each of nine events and a poll. -/
theorem everyCommandEmitsBoundedlyManyEvents : Obligations.EveryCommandEmitsBoundedlyManyEvents := by
  intro i s hwf _
  obtain ⟨t, hx, evs, ⟨hlen, hsamples⟩, hemit⟩ := exec_emitsWithin hwf s
  exact ⟨t, evs, hx, hemit, by omega, hsamples⟩

end Sys2Proof.Proofs
end

section
/-! PROOFS. The family of 41_conversion.md: rounding to the nearest integer (R87), the two scalings and the interpolation
with their ends and bounds (R88 to R92), the round trip (R97), and the two commands (R95, R96). All of it rests on
`rhu_eq_iff`, which places a rounded quotient within half a denominator of its fraction. -/

namespace Sys2Proof.Proofs

open Sys2Proof.Machine

/-! ### Rounding (41_conversion.md R87) -/

/-- Adding the denominator to the doubled remainder carries into the quotient exactly when the tenfold test holds. -/
theorem rhu_eq (num : Nat) {den : Nat} (h : 0 < den) : rhu num den = (2 * num + den) / (2 * den) := by
  have hlt : num % den < den := Nat.mod_lt num h
  have hsplit : 2 * num + den = (2 * (num % den) + den) + 2 * den * (num / den) := by
    rw [Nat.mul_assoc]
    have := Nat.mod_add_div num den
    omega
  rw [hsplit, Nat.add_mul_div_left _ _ (by omega), rhu]
  split
  · have hcarry : (2 * (num % den) + den) / (2 * den) = 1 := Nat.div_eq_of_lt_le (by omega) (by omega)
    rw [hcarry, Nat.add_comm]
  · have hcarry : (2 * (num % den) + den) / (2 * den) = 0 := Nat.div_eq_of_lt (by omega)
    rw [hcarry, Nat.zero_add]

theorem rhu_eq_iff {num den q : Nat} (h : 0 < den) :
    rhu num den = q ↔ 2 * (q * den) ≤ 2 * num + den ∧ 2 * num < 2 * (q * den) + den := by
  have hq : (q + 1) * (2 * den) = 2 * (q * den) + 2 * den := by ring
  rw [rhu_eq num h, Nat.div_eq_iff (by omega), Nat.mul_left_comm]
  omega

theorem rhu_mul_self (q : Nat) {den : Nat} (h : 0 < den) : rhu (q * den) den = q :=
  (rhu_eq_iff h).mpr ⟨by omega, by omega⟩

theorem rhu_le_of_le_mul {num den q : Nat} (h : 0 < den) (hle : num ≤ q * den) : rhu num den ≤ q := by
  obtain ⟨hlow, -⟩ := (rhu_eq_iff h).mp (rfl : rhu num den = _)
  by_contra! hgt
  have : (q + 1) * den ≤ rhu num den * den := Nat.mul_le_mul_right den hgt
  rw [Nat.succ_mul] at this
  omega

/-- Settles O33: the test is the definition's own, and the closed form is `rhu_eq`. -/
theorem roundHalfUpDivision : Obligations.RoundHalfUpDivision := fun num _ h => ⟨rfl, rhu_eq num h⟩

/-! ### The scalings and the interpolation (41_conversion.md R88 to R92) -/

theorem codeToCurrent_eq (k c : Nat) : codeToCurrent k c = rhu (c * 25 * k) 4095 := rfl

theorem directCode_eq (k j : Nat) : directCode k j = rhu (j * 4095) (25 * k) := rfl

theorem calCode_eq (k lo hi j : Nat) : calCode k lo hi j = lo + rhu ((j - 4 * k) * (hi - lo)) (16 * k) := rfl

theorem codeToCurrent_le {k c : Nat} (hc : c ≤ 4095) : codeToCurrent k c ≤ 25 * k := by
  refine rhu_le_of_le_mul (by decide) ?_
  rw [Nat.mul_assoc, Nat.mul_comm (_ * k)]
  exact Nat.mul_le_mul_right _ hc

section
variable {k : Nat} (hk : 1 ≤ k)
include hk

theorem directCode_zero : directCode k 0 = 0 := by
  simpa [directCode_eq] using rhu_mul_self 0 (show 0 < 25 * k by omega)

theorem directCode_full : directCode k (25 * k) = 4095 := by
  rw [directCode_eq, Nat.mul_comm (25 * k)]
  exact rhu_mul_self 4095 (by omega)

theorem directCode_le {j : Nat} (hj : j ≤ 25 * k) : directCode k j ≤ 4095 := by
  rw [directCode_eq, Nat.mul_comm j]
  exact rhu_le_of_le_mul (by omega) (Nat.mul_le_mul_left _ hj)

theorem calCode_lo (lo hi : Nat) : calCode k lo hi (4 * k) = lo := by
  simpa [calCode_eq] using rhu_mul_self 0 (show 0 < 16 * k by omega)

theorem calCode_hi {lo hi : Nat} (h : lo ≤ hi) : calCode k lo hi (20 * k) = hi := by
  have hspan : 20 * k - 4 * k = 16 * k := by omega
  rw [calCode_eq, hspan, Nat.mul_comm (16 * k), rhu_mul_self _ (by omega)]
  omega

theorem calCode_le {lo hi j : Nat} (h : lo ≤ hi) (hj : j ≤ 20 * k) : calCode k lo hi j ≤ hi := by
  have hle : rhu ((j - 4 * k) * (hi - lo)) (16 * k) ≤ hi - lo := by
    refine rhu_le_of_le_mul (by omega) ?_
    rw [Nat.mul_comm _ (hi - lo)]
    exact Nat.mul_le_mul_left _ (by omega)
  rw [calCode_eq]
  omega

end

/-- The current of a code is within half a unit of the exact one, and a unit is less than a code (41_conversion.md
R97). -/
theorem directCode_codeToCurrent {k : Nat} (hk : 164 ≤ k) (c : Nat) : directCode k (codeToCurrent k c) = c := by
  obtain ⟨hlow, hhigh⟩ := (rhu_eq_iff (by decide)).mp (codeToCurrent_eq k c).symm
  rw [Nat.mul_assoc] at hlow hhigh
  rw [directCode_eq, rhu_eq_iff (by omega)]
  omega

/-! ### The path and the clamp (41_conversion.md R86, R89) -/

theorem codeOfClamped_of_band {s : State} {j : Nat}
    (h : s.calEn = true ∧ 4 * s.params.k ≤ j ∧ j ≤ 20 * s.params.k) :
    codeOfClamped s j = calCode s.params.k s.calLo.toNat s.calHi.toNat j :=
  if_pos ((inBand_iff _ _ _).mpr h)

theorem codeOfClamped_of_not_band {s : State} {j : Nat}
    (h : ¬ (s.calEn = true ∧ 4 * s.params.k ≤ j ∧ j ≤ 20 * s.params.k)) :
    codeOfClamped s j = directCode s.params.k j :=
  if_neg (mt (inBand_iff _ _ _).mp h)

theorem currentToCode_of_mem {s : State} {cur : BitVec 32} (h0 : 0 ≤ cur.toInt)
    (h : cur.toInt ≤ 25 * (s.params.k : Int)) : currentToCode s cur = codeOfClamped s cur.toInt.toNat := by
  rw [currentToCode, clampCurrent_of_mem _ _ h0 h]

theorem toInt_ofNat_of_lt {n : Nat} (h : n < 2 ^ 31) : (BitVec.ofNat 32 n).toInt = n := by
  rw [BitVec.toInt_ofNat', Int.bmod_eq_of_le (by omega) (by omega)]

@[simp] theorem currentToCode_setRes (v : BitVec 32) (s : State) (cur : BitVec 32) :
    currentToCode (setRes v s) cur = currentToCode s cur := rfl

/-- An operand that holds a current of the clamp's range. -/
theorem currentToCode_ofNat {s : State} {n : Nat} (h : n < 2 ^ 31) (hn : n ≤ 25 * s.params.k) :
    currentToCode s (BitVec.ofNat 32 n) = codeOfClamped s n := by
  rw [currentToCode_of_mem] <;> rw [toInt_ofNat_of_lt h]
  · rfl
  · omega
  · exact_mod_cast hn

section
variable {s : State} (hk : 1 ≤ s.params.k)
include hk

/-- A current below 0 is clamped to 0, which is below the band. -/
theorem currentToCode_of_neg {cur : BitVec 32} (h : cur.toInt < 0) : currentToCode s cur = 0 := by
  rw [currentToCode, clampCurrent_of_neg _ _ h, codeOfClamped_of_not_band (by omega), directCode_zero hk]

/-- A current above 25 mA is clamped to 25 mA, which is above the band. -/
theorem currentToCode_of_gt {cur : BitVec 32} (h : 25 * (s.params.k : Int) < cur.toInt) :
    currentToCode s cur = 4095 := by
  rw [currentToCode, clampCurrent_of_gt _ _ h, codeOfClamped_of_not_band (by omega), directCode_full hk]

theorem codeOfClamped_le (hcal : CalOrdered s) {j : Nat} (hj : j ≤ 25 * s.params.k) : codeOfClamped s j ≤ 4095 := by
  by_cases hband : s.calEn = true ∧ 4 * s.params.k ≤ j ∧ j ≤ 20 * s.params.k
  · rw [codeOfClamped_of_band hband]
    obtain ⟨hen, -, hhi⟩ := hband
    obtain ⟨hlt, hmax⟩ := hcal hen
    exact (calCode_le hk hlt.le hhi).trans hmax
  · rw [codeOfClamped_of_not_band hband]
    exact directCode_le hk hj

theorem currentToCode_le (hcal : CalOrdered s) (cur : BitVec 32) : currentToCode s cur ≤ 4095 :=
  codeOfClamped_le hk hcal (clampCurrent_le _ _)

end

/-! ### The two commands (41_conversion.md R95, R96) -/

theorem exec_cvtc2i (code : BitVec 16) (s : State) :
    exec (.cvtc2i code) s = .next (setRes (currentResult s (low12 code)) s) := rfl

theorem exec_cvti2c (cur : BitVec 32) (s : State) :
    exec (.cvti2c cur) s = .next (setRes (BitVec.ofNat 32 (currentToCode s cur)) s) := rfl

theorem frame_setRes (v : BitVec 32) (s : State) : NoEvent s (setRes v s) ∧ BusFrame s (setRes v s) := by
  simp [NoEvent, BusFrame, SameControl, SameBinding, SameCal]

/-- A converted code is read back from the result as it is. -/
theorem toNat_ofNat_of_le {n : Nat} (h : n ≤ 4095) : (BitVec.ofNat 32 n).toNat = n := by
  rw [BitVec.toNat_ofNat, Nat.mod_eq_of_lt (by omega)]

/-- Settles O34: the closed form of the rounding at the masked code. -/
theorem codeToCurrentCommand : Obligations.CodeToCurrentCommand := by
  intro s code
  refine ⟨_, exec_cvtc2i code s, ?_, frame_setRes _ s⟩
  rw [setRes_res, currentResult, low12_toNat, codeToCurrent_eq, rhu_eq _ (by decide)]

/-- Settles O35: one clause for each side of the clamp, then one for each path inside it. -/
theorem currentToCodeCommand : Obligations.CurrentToCodeCommand := by
  intro s cur hk _
  refine ⟨_, exec_cvti2c cur s, fun hneg => ?_, fun hgt => ?_, fun hen hlo hhi => ?_, fun h0 hmax hband => ?_,
    frame_setRes _ s⟩
  · rw [setRes_res, currentToCode_of_neg hk hneg, BitVec.ofNat_eq_ofNat]
  · rw [setRes_res, currentToCode_of_gt hk hgt, BitVec.ofNat_eq_ofNat]
  · rw [setRes_res, currentToCode_of_mem (by omega) (by omega), codeOfClamped_of_band ⟨hen, by omega, by omega⟩,
      calCode_eq, rhu_eq _ (by omega)]
  · have hout : ¬ (s.calEn = true ∧ 4 * s.params.k ≤ cur.toInt.toNat ∧ cur.toInt.toNat ≤ 20 * s.params.k) :=
      fun ⟨hen, hlo, hhi⟩ => hband ⟨hen, by omega, by omega⟩
    rw [setRes_res, currentToCode_of_mem h0 hmax, codeOfClamped_of_not_band hout, directCode_eq, rhu_eq _ (by omega)]

/-- Settles O36: the clamp keeps the current within 25 mA, and neither path passes 4095 there. -/
theorem convertedCodeFitsTwelveBits : Obligations.ConvertedCodeFitsTwelveBits := by
  intro s t cur hk hcal h
  obtain rfl : setRes _ s = t := by injection (exec_cvti2c cur s).symm.trans h
  have hle := currentToCode_le hk hcal cur
  rwa [setRes_res, toNat_ofNat_of_le hle]

/-- Settles O37: with calibration off the code is `directCode` of the current, which fits the operand. -/
theorem roundTripRecoversTheCode : Obligations.RoundTripRecoversTheCode := by
  intro s code hen hk hfit hcode
  refine ⟨_, _, exec_cvtc2i code s, exec_cvti2c _ _, ?_⟩
  have hle : codeToCurrent s.params.k code.toNat ≤ 25 * s.params.k := codeToCurrent_le hcode
  have hback : currentToCode s (currentResult s (low12 code)) = code.toNat := by
    rw [currentResult, low12_toNat_of_le hcode, currentToCode_ofNat (hle.trans_lt hfit) hle,
      codeOfClamped_of_not_band (by simp [hen]), directCode_codeToCurrent hk]
  rw [setRes_res, setRes_res, currentToCode_setRes, hback, toNat_ofNat_of_le hcode]

/-- Settles O38: both ends are in the band, where the interpolation gives the calibration codes. -/
theorem bandEndsGiveTheCalibrationCodes : Obligations.BandEndsGiveTheCalibrationCodes := by
  intro s hen hcal hk hfit
  obtain ⟨hlt, hmax⟩ := hcal hen
  rw [Config.codeMax] at hmax
  refine ⟨⟨_, exec_cvti2c _ s, ?_⟩, ⟨_, exec_cvti2c _ s, ?_⟩⟩
  · rw [setRes_res, currentToCode_ofNat (by omega) (by omega), codeOfClamped_of_band ⟨hen, by omega, by omega⟩,
      calCode_lo hk, toNat_ofNat_of_le (by omega)]
  · rw [setRes_res, currentToCode_ofNat (by omega) (by omega), codeOfClamped_of_band ⟨hen, by omega, by omega⟩,
      calCode_hi hk hlt.le, toNat_ofNat_of_le hmax]

end Sys2Proof.Proofs
end

section
/-! PROOFS. The family of 42_device_commands.md: the guard (R100), SETCAL (R104), the presence check of INIT (R103), the
write frame of WRCODE and WRCUR (R105, R106), the phases of PERSIST (R107) with what a receiver sees of them, and the
levels that reach no state (R109). Every frame ends with both lines high and the data line driven, so `eq_of_runs` gives
the state after it in one equation, up to the environment, the record of events and the poll counter. -/

namespace Sys2Proof.Proofs

open Sys2Proof.Machine

/-! ### The guard (42_device_commands.md R100) -/

/-- Settles O9: none of these commands is executed in that state, so each gets the ILLEGAL response. -/
theorem guardedCommandChangesOnlyTheResult : Obligations.GuardedCommandChangesOnlyTheResult := by
  refine ⟨fun s a b hst => exec_of_not_executedIn (by simp [executedIn, hst]), fun s i hst hi => ?_⟩
  have hguard : executedIn i s.st = false := by
    rcases hi with ⟨c, rfl⟩ | ⟨c, rfl⟩ | rfl | rfl | rfl | ⟨d, n, e, rfl⟩ | ⟨d, n, rfl⟩ | ⟨e, rfl⟩ <;>
      simp [executedIn, hst]
  exact exec_of_not_executedIn hguard

/-! ### SETCAL (42_device_commands.md R104) -/

theorem exec_setcal_of_ordered {lo hi : BitVec 16} (h : lo.toNat < hi.toNat ∧ hi.toNat ≤ 4095) (s : State) :
    exec (.setcal lo hi) s = .next { s with calLo := low12 lo, calHi := low12 hi, calEn := true, res := 0 } :=
  congrArg Host.Outcome.next (if_pos ((calOk_iff lo hi).mpr h))

theorem exec_setcal_of_not_ordered {lo hi : BitVec 16} (h : ¬ (lo.toNat < hi.toNat ∧ hi.toNat ≤ 4095)) (s : State) :
    exec (.setcal lo hi) s = .next (setRes 1 s) :=
  congrArg Host.Outcome.next (if_neg (mt (calOk_iff lo hi).mp h))

/-- Settles O41: an ordered pair within range fits twelve bits and is stored, any other reaches the result only. -/
theorem setCalibrationAcceptsOrderedPairs : Obligations.SetCalibrationAcceptsOrderedPairs := by
  intro s lo hi
  by_cases h : lo.toNat < hi.toNat ∧ hi.toNat ≤ 4095
  · obtain ⟨hlt, hle⟩ := h
    exact ⟨_, exec_setcal_of_ordered ⟨hlt, hle⟩ s,
      fun _ => ⟨rfl, low12_toNat_of_le (by omega), low12_toNat_of_le hle, rfl⟩, fun hbad => by omega,
      by simp [NoEvent], by simp [SameControl], by simp [SameBinding], rfl, rfl⟩
  · obtain ⟨hno, hcontrol, hbinding, hcal, hst, hcode⟩ := frame_setRes 1 s
    exact ⟨_, exec_setcal_of_not_ordered h s, fun hok => absurd hok h, fun _ => ⟨hcal, rfl⟩, hno, hcontrol, hbinding,
      hst, hcode⟩

/-! ### The state after a run of events -/

/-- The state with the lines of `q`. -/
def withPins (q : Pins) (s : State) : State :=
  { s with sclMode := q.sclMode, sclOut := q.sclOut, sdaMode := q.sdaMode, sdaOut := q.sdaOut }

/-- The state with the environment's position, the record of events and the poll counter of `u`: all that depends on the
sampled levels. -/
def withRecordOf (u s : State) : State :=
  { s with levels := u.levels, draws := u.draws, trace := u.trace, pollCnt := u.pollCnt }

theorem eq_of_runs {s t : State} {evs : List Event} {q : Pins} (h : Runs s t evs)
    (hq : pinsAfterAll (pinsOf s) evs = q) : t = withRecordOf t (withPins q s) := by
  obtain ⟨hsm, hso, hdm, hdo⟩ := lines_of_runs h hq
  cases t
  simp only [withRecordOf, withPins, State.mk.injEq, true_and]
  exact ⟨h.st, h.busy, h.pinScl, h.pinSda, hsm, hso, hdm, hdo, h.calEn, h.calLo, h.calHi, h.lastCode, h.res, h.seq,
    h.rst, h.words, h.params⟩

/-! ### The state after a frame (40_bus_primitives.md R68, R78) -/

/-- The lines between two frames: both high, the data line driven, the clock line in the mode it had. -/
def linesHigh (m : LineMode) : Pins := ⟨m, true, .out, true⟩

section
variable {p : Params} {exp : Level}

theorem pinsAfterAll_unitTrace {v : Byte} {n : Nat} {r : Level} {evs : List Event} (h : UnitTrace p v n exp evs r)
    (hn : 1 ≤ n) (q : Pins) : pinsAfterAll q evs = ⟨q.sclMode, false, .out, v.getLsbD 0⟩ := by
  obtain ⟨ack, hack, rfl⟩ := h
  rw [pinsAfterAll_append, pinsAfterAll_traceBits p v hn, pinsAfterAll_ackTrace hack]

/-- The last acknowledgment read of some bytes leaves the data line driven. -/
theorem pinsAfterAll_bytesTrace {vs : List Byte} {evs : List Event} (h : BytesTrace p exp vs evs) {q : Pins}
    (hq : vs ≠ [] ∨ q.sdaMode = .out) : ∃ c d, pinsAfterAll q evs = ⟨q.sclMode, c, .out, d⟩ := by
  induction vs generalizing q evs with
  | nil =>
    obtain rfl : evs = [] := h
    have hout : q.sdaMode = .out := hq.resolve_left (by simp)
    exact ⟨q.sclOut, q.sdaOut, by rw [pinsAfterAll_nil, ← hout]⟩
  | cons v rest ih =>
    obtain ⟨r, here, after, hunit, hbytes, rfl⟩ := h
    rw [pinsAfterAll_append, pinsAfterAll_unitTrace hunit (by decide)]
    exact ih hbytes (.inr rfl)

theorem pinsAfterAll_frameTrace {vs : List Byte} {evs : List Event} (h : FrameTrace p exp vs evs) (hvs : vs ≠ [])
    (q : Pins) : pinsAfterAll q evs = linesHigh q.sclMode := by
  obtain ⟨bytes, hbytes, rfl⟩ := h
  obtain ⟨c, d, hpins⟩ := pinsAfterAll_bytesTrace hbytes (q := pinsAfterAll q (traceS p)) (.inl hvs)
  rw [pinsAfterAll_append, pinsAfterAll_append, hpins]
  rfl

end

/-- A run that leaves the lines high, and a result after it, keep what the bus primitives keep. -/
theorem busFrame_of_linesHigh (v : BitVec 32) (u s : State) :
    BusFrame s (setRes v (withRecordOf u (withPins (linesHigh s.sclMode) s))) :=
  ⟨⟨rfl, rfl, rfl, rfl, rfl⟩, ⟨rfl, rfl, rfl⟩, ⟨rfl, rfl, rfl⟩, rfl, rfl⟩

/-! ### The write frame (42_device_commands.md R101, R105, R106) -/

/-- The code is kept, its frame is sent, and nothing else is written but what every frame writes. -/
theorem writeCode_spec (c : BitVec 12) (s : State) :
    ∃ evs u, FrameTrace s.params s.params.ackLevel
        [BitVec.ofNat 8 (2 * s.params.busAddr.toNat), s.params.regSelect, BitVec.ofNat 8 (c.toNat % 16 * 16),
          BitVec.ofNat 8 (c.toNat / 16)] evs ∧
      emitted u = emitted s ++ evs ∧
      writeCode c s = withRecordOf u (withPins (linesHigh s.sclMode) { s with lastCode := c }) := by
  obtain ⟨evs, hframe, hr⟩ := bytesFrame_spec
    [addrByte s.params, s.params.regSelect, codeLowByte c, codeHighByte c] s.params.ackLevel { s with lastCode := c }
  have hstate := eq_of_runs hr (pinsAfterAll_frameTrace hframe (by simp) _)
  have hbody : writeCode c s = bytesFrame _ _ { s with lastCode := c } := writeFrame_eq c _
  rw [addrByte_eq, codeLowByte_eq, codeHighByte_eq] at hframe
  exact ⟨evs, _, hframe, hr.emits, hbody.trans hstate⟩

theorem currentResult_eq (s : State) (c : BitVec 12) :
    currentResult s c = BitVec.ofNat 32 ((2 * (c.toNat * 25 * s.params.k) + 4095) / (2 * 4095)) := by
  rw [currentResult, codeToCurrent_eq, rhu_eq _ (by decide)]

section
variable {s : State} (hst : s.st = .ready)
include hst

theorem exec_wrcode_in_range {code : BitVec 16} (h : code.toNat ≤ 4095) :
    exec (.wrcode code) s = .next (setRes (currentResult s (low12 code)) (writeCode (low12 code) s)) :=
  (next_guarded_of_eq hst).trans (congrArg _ (if_pos ((codeOk_iff code).mpr h)))

theorem exec_wrcode_of_gt {code : BitVec 16} (h : 4095 < code.toNat) :
    exec (.wrcode code) s = .next (setRes (currentResult s s.lastCode) s) :=
  (next_guarded_of_eq hst).trans (congrArg _ (if_neg (mt (codeOk_iff code).mp h.not_ge)))

theorem exec_wrcur (cur : BitVec 32) :
    exec (.wrcur cur) s = .next (setRes ((wrcurCode cur s).setWidth 32) (writeCode (wrcurCode cur s) s)) :=
  next_guarded_of_eq hst

theorem exec_persist : exec .persist s = .next (setRes 0 (persistPhases s)) := next_guarded_of_eq hst

end

/-- Settles O42: out of range only the result is written; in range the result follows the write frame. -/
theorem wrcodeSendsTheCode : Obligations.WrcodeSendsTheCode := by
  intro s code hst
  refine ⟨fun hgt => ?_, fun hle => ?_⟩
  · rw [exec_wrcode_of_gt hst hgt, currentResult_eq]
    rfl
  · have hcode := low12_toNat_of_le hle
    obtain ⟨evs, u, hframe, hemit, hstate⟩ := writeCode_spec (low12 code) s
    have hx := exec_wrcode_in_range hst hle
    rw [hstate, currentResult_eq, hcode] at hx
    rw [hcode] at hframe
    obtain ⟨hcontrol, hbinding, hcal, hready, -⟩ := busFrame_of_linesHigh _ u { s with lastCode := low12 code }
    exact ⟨_, evs, hx, hframe, hemit, hcode, rfl, rfl, rfl, rfl, hcontrol, hbinding, hcal, hready⟩

section
variable {s : State} (hk : 1 ≤ s.params.k) (hcal : CalOrdered s) (cur : BitVec 32)
include hk hcal

/-- The mask to twelve bits changes nothing (41_conversion.md R92). -/
theorem wrcurCode_toNat : (wrcurCode cur s).toNat = currentToCode s cur := by
  have hle := currentToCode_le hk hcal cur
  rw [wrcurCode, BitVec.toNat_ofNat, Nat.mod_eq_of_lt (by omega)]

theorem wrcurCode_setWidth : (wrcurCode cur s).setWidth 32 = BitVec.ofNat 32 (currentToCode s cur) := by
  rw [← wrcurCode_toNat hk hcal cur, BitVec.ofNat_toNat]

end

/-- Settles O43: the code that is kept and sent is the converted one, which twelve bits hold. -/
theorem wrcurSendsTheConvertedCode : Obligations.WrcurSendsTheConvertedCode := by
  intro s cur hst hk hcal
  have hcode := wrcurCode_toNat hk hcal cur
  have hres : (setRes (BitVec.ofNat 32 (currentToCode s cur)) s).res.toNat = currentToCode s cur :=
    toNat_ofNat_of_le (currentToCode_le hk hcal cur)
  obtain ⟨evs, u, hframe, hemit, hstate⟩ := writeCode_spec (wrcurCode cur s) s
  have hx := exec_wrcur hst cur
  rw [hstate, wrcurCode_setWidth hk hcal] at hx
  rw [hcode, ← hres] at hframe
  obtain ⟨hcontrol, hbinding, hcal', hready, -⟩ := busFrame_of_linesHigh _ u { s with lastCode := wrcurCode cur s }
  exact ⟨_, _, evs, exec_cvti2c cur s, hx, rfl, hcode.trans hres.symm, hframe, hemit, rfl, rfl, rfl, hcontrol, hbinding,
    hcal', hready⟩

/-- The converted code as the operand of WRCODE: its low twelve bits are the code that WRCUR writes. -/
theorem low12_currentToCode (s : State) (cur : BitVec 32) :
    low12 ((BitVec.ofNat 32 (currentToCode s cur)).setWidth 16) = wrcurCode cur s := by
  apply BitVec.eq_of_toNat_eq
  rw [low12_toNat, wrcurCode, BitVec.toNat_setWidth, BitVec.toNat_ofNat, BitVec.toNat_ofNat]
  omega

theorem toNat_setWidth_of_le {n : Nat} (h : n ≤ 4095) : ((BitVec.ofNat 32 n).setWidth 16).toNat = n := by
  rw [BitVec.toNat_setWidth, toNat_ofNat_of_le h, Nat.mod_eq_of_lt (by omega)]

/-- Settles O44: the converted code is in WRCODE's range and is the code WRCUR writes. -/
theorem wrcurIsConvertThenWrcode : Obligations.WrcurIsConvertThenWrcode := by
  intro s cur hst hk hcal
  have hle := currentToCode_le hk hcal cur
  have hwrcode := exec_wrcode_in_range hst ((toNat_setWidth_of_le hle).trans_le hle)
  have hwrcur := exec_wrcur hst cur
  rw [wrcurCode_setWidth hk hcal] at hwrcur
  rw [low12_currentToCode] at hwrcode
  generalize writeCode (wrcurCode cur s) s = t at hwrcode hwrcur
  exact ⟨_, _, exec_cvti2c cur s, hwrcode, hwrcur⟩

/-! ### PERSIST (42_device_commands.md R107) -/

/-- The events PERSIST can emit: its phases in order. -/
def PersistTrace (p : Params) (evs : List Event) : Prop :=
  ∃ f2 f3 f5, FrameTrace p p.expCmd [0x10, 0x03] f2 ∧
    FrameTrace p p.expUnlock [BitVec.ofNat 8 (2 * p.busAddr.toNat), 0, 0, 0, 0, 0, 0, 0, 0] f3 ∧
    FrameTrace p p.expCmd [0x10, 0x00] f5 ∧
    evs = traceHeader p ++ f2 ++ f3 ++ [.waitMs p.tCommitMs] ++ traceHeader p ++ f5

theorem unlockBytes_eq (p : Params) :
    unlockBytes p = [BitVec.ofNat 8 (2 * p.busAddr.toNat), 0, 0, 0, 0, 0, 0, 0, 0] := by
  rw [unlockBytes, addrByte_eq]
  rfl

/-- A frame of bytes after a run of events. -/
theorem runs_append_bytesFrame {s t : State} {evs : List Event} (h : Runs s t evs) (vs : List Byte) (exp : Level) :
    ∃ frame, FrameTrace s.params exp vs frame ∧ Runs s (bytesFrame vs exp t) (evs ++ frame) := by
  obtain ⟨frame, hframe, hr⟩ := bytesFrame_spec vs exp t
  rw [h.params] at hframe
  exact ⟨frame, hframe, h.trans hr⟩

theorem persistPhases_runs (s : State) : ∃ evs, PersistTrace s.params evs ∧ Runs s (persistPhases s) evs := by
  obtain ⟨f2, hf2, h2⟩ := runs_append_bytesFrame (runs_headerFrame s) [0x10, 0x03] s.params.expCmd
  obtain ⟨f3, hf3, h3⟩ := runs_append_bytesFrame h2 (unlockBytes s.params) s.params.expUnlock
  have h4 := h3.trans (runs_waitMs s.params.tCommitMs _)
  have h5 := h4.trans (runs_headerFrame _)
  obtain ⟨f5, hf5, h6⟩ := runs_append_bytesFrame h5 [0x10, 0x00] s.params.expCmd
  rw [unlockBytes_eq] at hf3
  rw [h4.params] at h6
  exact ⟨_, ⟨f2, f3, f5, hf2, hf3, hf5, rfl⟩, by simpa [persistPhases] using h6⟩

theorem pinsAfterAll_traceHeader (p : Params) (q : Pins) :
    pinsAfterAll q (traceHeader p) = { q with sclOut := true, sdaOut := true } := by
  simp only [traceHeader, pinsAfterAll_append, pinsAfterAll_traceBits p 0x02 (show 1 ≤ 3 by decide)]
  rfl

theorem pinsAfterAll_persistTrace {p : Params} {evs : List Event} (h : PersistTrace p evs) (q : Pins) :
    pinsAfterAll q evs = linesHigh q.sclMode := by
  obtain ⟨f2, f3, f5, hf2, hf3, hf5, rfl⟩ := h
  simp [pinsAfterAll_frameTrace hf2, pinsAfterAll_frameTrace hf3, pinsAfterAll_frameTrace hf5,
    pinsAfterAll_traceHeader, pinsAfter, linesHigh]

/-- The phases are sent, and nothing is written but what every frame writes. -/
theorem persistPhases_spec (s : State) :
    ∃ evs u, PersistTrace s.params evs ∧ emitted u = emitted s ++ evs ∧
      persistPhases s = withRecordOf u (withPins (linesHigh s.sclMode) s) := by
  obtain ⟨evs, htrace, hr⟩ := persistPhases_runs s
  exact ⟨evs, _, htrace, hr.emits, eq_of_runs hr (pinsAfterAll_persistTrace htrace _)⟩

/-- Settles O45: the six phases one after another, and no level they sample is read again. -/
theorem persistSendsTheStoreSequence : Obligations.PersistSendsTheStoreSequence := by
  intro s hst
  obtain ⟨_, u, ⟨f2, f3, f5, hf2, hf3, hf5, rfl⟩, hemit, hstate⟩ := persistPhases_spec s
  have hx := exec_persist hst
  rw [hstate] at hx
  simp only [← List.append_assoc] at hemit
  exact ⟨_, f2, f3, f5, hx, hf2, hf3, hf5, hemit, rfl, rfl, rfl, rfl, busFrame_of_linesHigh 0 u s⟩

/-! ### What a receiver sees of PERSIST (70_reset_and_hazards.md R146 (a), (b)) -/

section
variable {rel : Released} (p : Params)

/-- The tail raises the clock, so the first write of the stop condition is an edge when the tail left the data line
high. -/
theorem marks_tail_stop (d : Level) :
    marks rel (clockLow d) (traceT p ++ traceP p) =
      .clock p.noackSdaLevel :: (if p.noackSdaLevel then [.startEdge, .stopEdge] else [.stopEdge]) := by
  cases h : p.noackSdaLevel <;>
    simp [traceT, traceP, traceHold, h, clockLow, pinsAfter, marksBetween, sclLevel, sdaLevel]

theorem traceHeader_idleBus :
    marks rel idleBus (traceHeader p) = marksOfHeader p.noackSdaLevel ∧
      pinsAfterAll idleBus (traceHeader p) = idleBus := by
  obtain ⟨hstart, hlow⟩ := traceS_idleBus (rel := rel) p
  obtain ⟨hbits, d, hd⟩ := traceBits_clocksLow (rel := rel) p 0x02 3 false
  refine ⟨?_, pinsAfterAll_traceHeader p idleBus⟩
  rw [traceHeader, List.append_assoc, marks_append, marks_append, pinsAfterAll_append, hstart, hlow, hbits, hd,
    marks_tail_stop]
  rfl

end

/-- From an idle bus every phase finds the bus idle again. -/
theorem marks_persistTrace {p : Params} {evs : List Event} (rel : Released) (h : PersistTrace p evs) :
    marks rel idleBus evs =
      marksOfHeader p.noackSdaLevel ++ marksOfFrame rel [0x10, 0x03] ++
      marksOfFrame rel [BitVec.ofNat 8 (2 * p.busAddr.toNat), 0, 0, 0, 0, 0, 0, 0, 0] ++
      marksOfHeader p.noackSdaLevel ++ marksOfFrame rel [0x10, 0x00] := by
  obtain ⟨f2, f3, f5, hf2, hf3, hf5, rfl⟩ := h
  obtain ⟨hmh, hh⟩ := traceHeader_idleBus (rel := rel) p
  obtain ⟨hm2, h2⟩ := frameTrace_idleBus (rel := rel) hf2
  obtain ⟨hm3, h3⟩ := frameTrace_idleBus (rel := rel) hf3
  obtain ⟨hm5, -⟩ := frameTrace_idleBus (rel := rel) hf5
  have hwait : marks rel idleBus [.waitMs p.tCommitMs] = [] ∧
      pinsAfterAll idleBus [.waitMs p.tCommitMs] = idleBus := by simp [pinsAfter]
  obtain ⟨hmw, hw⟩ := hwait
  simp only [marks_append, pinsAfterAll_append, hmh, hh, hm2, h2, hm3, h3, hmw, hw, hm5, List.append_nil]

/-- Settles O47: the marks of the phases, each from the idle bus the phase before it left. -/
theorem persistOnTheBus : Obligations.PersistOnTheBus := by
  intro s rel hst hpins
  obtain ⟨evs, u, htrace, hemit, hstate⟩ := persistPhases_spec s
  have hx := exec_persist hst
  rw [hstate] at hx
  rw [hpins]
  exact ⟨_, evs, hx, hemit, marks_persistTrace rel htrace⟩

/-! ### The levels that reach no state (42_device_commands.md R109) -/

section
variable (e s : State)

/-- The write frame in another environment, after other events. -/
theorem writeCode_withRecordOf (c : BitVec 12) :
    writeCode c (withRecordOf e s) = withRecordOf (writeCode c (withRecordOf e s)) (writeCode c s) := by
  obtain ⟨-, u, -, -, hs⟩ := writeCode_spec c s
  obtain ⟨-, u', -, -, hs'⟩ := writeCode_spec c (withRecordOf e s)
  rw [hs, hs']
  rfl

theorem persistPhases_withRecordOf :
    persistPhases (withRecordOf e s) = withRecordOf (persistPhases (withRecordOf e s)) (persistPhases s) := by
  obtain ⟨-, u, -, -, hs⟩ := persistPhases_spec s
  obtain ⟨-, u', -, -, hs'⟩ := persistPhases_spec (withRecordOf e s)
  rw [hs, hs']
  rfl

/-- A result that does not depend on the environment, after such a run. -/
theorem setRes_withRecordOf {t u : State} (v : BitVec 32) (h : u = withRecordOf u t) :
    setRes v u = withRecordOf (setRes v u) (setRes v t) :=
  congrArg (setRes v) h

theorem wrcodeBody_withRecordOf (code : BitVec 16) :
    wrcodeBody code (withRecordOf e s) = withRecordOf (wrcodeBody code (withRecordOf e s)) (wrcodeBody code s) := by
  unfold wrcodeBody
  split
  · exact setRes_withRecordOf _ (writeCode_withRecordOf e s (low12 code))
  · rfl

theorem guarded_withRecordOf {need : DevState} {body : State → State}
    (h : body (withRecordOf e s) = withRecordOf (body (withRecordOf e s)) (body s)) :
    guarded need body (withRecordOf e s) =
      withRecordOf (guarded need body (withRecordOf e s)) (guarded need body s) := by
  by_cases hs : s.st = need
  · rw [guarded_of_eq need body (withRecordOf e s) hs, guarded_of_eq need body s hs]
    exact h
  · rw [guarded_of_ne need body (withRecordOf e s) hs, guarded_of_ne need body s hs]
    rfl

end

/-- Settles O49: the frames leave a state that depends on the environment in what `withRecordOf` takes from it only, and
neither the code nor the result depends on it. -/
theorem sampledLevelsReachNoState : Obligations.SampledLevelsReachNoState := by
  intro s i ls n hi
  change ∃ t u, exec i s = .next t ∧ exec i (withRecordOf { s with levels := ls, draws := n } s) = .next u ∧
    u = withRecordOf u t
  generalize ({ s with levels := ls, draws := n } : State) = e
  rcases hi with ⟨code, rfl⟩ | ⟨cur, rfl⟩ | rfl
  · exact ⟨_, _, rfl, rfl, guarded_withRecordOf e s (wrcodeBody_withRecordOf e s code)⟩
  · exact ⟨_, _, rfl, rfl, guarded_withRecordOf e s
      (setRes_withRecordOf _ (writeCode_withRecordOf e s (wrcurCode cur s)))⟩
  · exact ⟨_, _, rfl, rfl, guarded_withRecordOf e s (setRes_withRecordOf 0 (persistPhases_withRecordOf e s))⟩

/-! ### INIT (42_device_commands.md R103) -/

/-- The presence check is a unit of the address byte between the mode switch with a start condition and a stop
condition. -/
theorem presenceCheck_eq (s : State) :
    ∃ v, Runs s v ([.mode .scl .out, .mode .sda .out] ++ traceS s.params) ∧
      presenceCheck s = ((unitAck (addrByte s.params) 8 s.params.ackLevel v).1,
        stopCond (unitAck (addrByte s.params) 8 s.params.ackLevel v).2) :=
  ⟨startCond (setMode .sda .out (setMode .scl .out s)),
    ((runs_setMode .scl .out s).trans (runs_setMode .sda .out _)).trans (runs_startCond _), by simp [presenceCheck]⟩

/-- The level the presence check returns is that of its acknowledgment read. -/
theorem presenceCheck_runs (s : State) :
    ∃ unit, UnitTrace s.params (BitVec.ofNat 8 (2 * s.params.busAddr.toNat)) 8 s.params.ackLevel unit
        (presenceCheck s).1 ∧
      Runs s (presenceCheck s).2
        ([.mode .scl .out, .mode .sda .out] ++ traceS s.params ++ unit ++ traceP s.params) := by
  obtain ⟨v, start, hcheck⟩ := presenceCheck_eq s
  obtain ⟨unit, hunit, hr⟩ := unitAck_spec (addrByte s.params) 8 s.params.ackLevel v
  have stop := runs_stopCond (unitAck (addrByte s.params) 8 s.params.ackLevel v).2
  rw [hr.params, start.params] at stop
  rw [start.params, addrByte_eq] at hunit
  rw [hcheck, addrByte_eq]
  rw [addrByte_eq] at hr stop
  exact ⟨unit, hunit, (start.trans hr).trans stop⟩

/-- Both lines end driven and high, whatever their modes were. -/
theorem presenceCheck_frame (s : State) :
    ∃ unit u, UnitTrace s.params (BitVec.ofNat 8 (2 * s.params.busAddr.toNat)) 8 s.params.ackLevel unit
        (presenceCheck s).1 ∧
      emitted u = emitted s ++ [.mode .scl .out, .mode .sda .out] ++ traceS s.params ++ unit ++ traceP s.params ∧
      (presenceCheck s).2 = withRecordOf u (withPins idleBus s) := by
  obtain ⟨unit, hunit, hr⟩ := presenceCheck_runs s
  have hpins : pinsAfterAll (pinsOf s)
      ([.mode .scl .out, .mode .sda .out] ++ traceS s.params ++ unit ++ traceP s.params) = idleBus := by
    rw [pinsAfterAll_append, pinsAfterAll_append, pinsAfterAll_unitTrace hunit (by decide)]
    rfl
  exact ⟨unit, _, hunit, hr.emits.trans (by simp only [List.append_assoc]), eq_of_runs hr hpins⟩

/-- The level decides `st` and the result, and nothing else. -/
theorem presenceResult_eq (r : Level) (s : State) :
    presenceResult r s =
      { s with st := if r = s.params.ackLevel then .ready else s.st, res := if r = s.params.ackLevel then 0 else 2 } := by
  unfold presenceResult
  split <;> rfl

section
variable {s : State} {a b : BitVec 16} (hst : s.st = .uninit)
include hst

theorem exec_init_of_pins (ha : pinOk s.params.pinValid a = true) (hb : pinOk s.params.pinValid b = true) :
    exec (.init a b) s =
      .next (presenceResult (presenceCheck (bindPins a b s)).1 (presenceCheck (bindPins a b s)).2) :=
  (next_guarded_of_eq hst).trans (congrArg _ (if_pos ((pinsOk_iff s.params a b).mpr ⟨ha, hb⟩)))

theorem exec_init_of_bad_pins (h : ¬ (pinOk s.params.pinValid a = true ∧ pinOk s.params.pinValid b = true)) :
    exec (.init a b) s = .next (setRes 1 s) :=
  (next_guarded_of_eq hst).trans (congrArg _ (if_neg (mt (pinsOk_iff s.params a b).mp h)))

end

/-- Settles O39: the pin check comes first, then the frame of the presence check, whose level decides. -/
theorem initIsGatedByThePresenceCheck : Obligations.InitIsGatedByThePresenceCheck := by
  intro s a b hst
  refine ⟨exec_init_of_bad_pins hst, fun ha hb => ?_⟩
  obtain ⟨unit, u, hunit, hemit, hstate⟩ := presenceCheck_frame (bindPins a b s)
  have hx := exec_init_of_pins hst ha hb
  rw [hstate, presenceResult_eq] at hx
  generalize (presenceCheck (bindPins a b s)).1 = r at hx hunit
  exact ⟨_, unit, r, hx, hunit, hemit, rfl, rfl, rfl, rfl, rfl, rfl, fun hr => ⟨if_pos hr, if_pos hr⟩,
    fun hr => ⟨(if_neg hr).trans hst, if_neg hr⟩, ⟨rfl, rfl, rfl, rfl, rfl⟩, ⟨rfl, rfl, rfl⟩, rfl⟩

/-- The presence check takes its level and leaves the environment as an acknowledgment read does. -/
theorem presenceCheck_levels (s : State) :
    ∃ u, u.params = s.params ∧ u.levels = s.levels ∧
      (presenceCheck s).1 = (ackRead s.params.ackLevel u).1 ∧
      (presenceCheck s).2.levels = (ackRead s.params.ackLevel u).2.levels := by
  obtain ⟨v, start, hcheck⟩ := presenceCheck_eq s
  have bits := start.trans (runs_unitBits (addrByte s.params) 8 v)
  obtain ⟨hlevels, -⟩ := environment_of_runs bits (by rw [sampleCount_append, start.params, sampleCount_traceBits]; rfl)
  obtain ⟨hstop, -⟩ := environment_of_runs (runs_stopCond (unitAck (addrByte s.params) 8 s.params.ackLevel v).2) rfl
  rw [hcheck]
  exact ⟨_, bits.params, hlevels, rfl, hstop⟩

/-- The level after the poll is the one an acknowledgment read returns. -/
theorem ackRead_of_levels {exp r : Level} {s : State} {rest : List Level}
    (h : (pollPhase exp (releasePhase s)).levels = r :: rest) :
    (ackRead exp s).1 = r ∧ (ackRead exp s).2.levels = rest :=
  ⟨by simp [ackRead, nextLevel, h], congrArg List.tail h⟩

/-- INIT with valid pins, the level its presence check returns being known. -/
theorem exec_init_of_level {s : State} {a b : BitVec 16} {r : Level} {rest : List Level} (hst : s.st = .uninit)
    (ha : pinOk s.params.pinValid a = true) (hb : pinOk s.params.pinValid b = true)
    (hpoll : ∀ u : State, u.params = s.params → u.levels = s.levels →
      (pollPhase s.params.ackLevel u).levels = r :: rest) :
    ∃ t, exec (.init a b) s = .next t ∧ t.st = (if r = s.params.ackLevel then .ready else .uninit) ∧
      t.res = (if r = s.params.ackLevel then 0 else 2) ∧ t.levels = rest := by
  obtain ⟨u, hparams, hlevels, hlevel, hleft⟩ := presenceCheck_levels (bindPins a b s)
  obtain ⟨evs, hr⟩ := runs_presenceCheck (bindPins a b s)
  obtain ⟨hread, hrest⟩ := ackRead_of_levels (hpoll (releasePhase u) hparams hlevels)
  have hx := exec_init_of_pins hst ha hb
  rw [presenceResult_eq, hlevel.trans hread, hr.params, hr.st, bindPins_st, hst] at hx
  exact ⟨_, hx, rfl, rfl, hleft.trans hrest⟩

/-- Settles O40: with a first level that matches the second is the level of the read; with none that matches within the
bound, the one after the bound is. -/
theorem initSucceedsAtOnceAndFailsOnSilence : Obligations.InitSucceedsAtOnceAndFailsOnSilence := by
  intro s a b rest hst hmax ha hb
  refine ⟨fun hlevels => ?_, fun hlevels => ?_⟩
  · have hpoll : ∀ u : State, u.params = s.params → u.levels = s.levels →
        (pollPhase s.params.ackLevel u).levels = s.params.ackLevel :: rest := fun u hp hl => by
      have hbound : 0 < u.params.ackPollMax := by rwa [hp]
      obtain ⟨-, -, hleft⟩ := pollPhase_of_match (k := 0) hbound (hl.trans hlevels)
      exact hleft
    obtain ⟨t, hx, hready, hres, hrest⟩ := exec_init_of_level hst ha hb hpoll
    exact ⟨t, hx, hready.trans (if_pos rfl), hres.trans (if_pos rfl), hrest⟩
  · rw [List.replicate_succ', List.append_assoc] at hlevels
    have hpoll : ∀ u : State, u.params = s.params → u.levels = s.levels →
        (pollPhase s.params.ackLevel u).levels = (!s.params.ackLevel) :: rest := fun u hp hl => by
      rw [← hl, ← hp] at hlevels
      obtain ⟨-, -, hleft⟩ := pollPhase_of_timeout hlevels
      rwa [← hp]
    obtain ⟨t, hx, hready, hres, hrest⟩ := exec_init_of_level hst ha hb hpoll
    have hne : (!s.params.ackLevel) ≠ s.params.ackLevel := by simp
    exact ⟨t, hx, hready.trans (if_neg hne), hres.trans (if_neg hne), hrest⟩

end Sys2Proof.Proofs
end

section
/-! PROOFS. The family of 60_exceptions.md: the ILLEGAL response to a word of the port that no row matches (R127). -/

namespace Sys2Proof.Proofs

open Sys2Proof.Machine

/-- The ILLEGAL response writes the result and no other field (60_exceptions.md R127). -/
theorem illegalResponse_eq (s : State) : illegalResponse s = { s with res := 0xFFFFFFFF } := rfl

/-- Settles O8: the next action answers the word with the ILLEGAL response, which writes the result only. -/
theorem illegalWordChangesOnlyTheResult : Obligations.IllegalWordChangesOnlyTheResult := by
  intro s w rest e hrst hseq hwords hdec
  rw [step_of_illegal hrst hseq hwords hdec, illegalResponse_eq]

end Sys2Proof.Proofs
end

section
/-! PROOFS. The family of 70_reset_and_hazards.md: held reset and waiting (R140, R141), what the bus sees of a primitive
entered in another line state (R146), and the counts of an acknowledged write frame (R152). The line states rest on
`dataEdge`, a change of the data line under a high clock; the counts on `Counted`, which adds up along a list. -/

namespace Sys2Proof.Proofs

open Sys2Proof.Machine

/-! ### Reset and waiting (70_reset_and_hazards.md R140, R141) -/

theorem acceptNext_of_no_word {s : State} (hwords : s.words = []) : acceptNext s = s := by
  simp [acceptNext, hwords]

/-- Settles O10: with no word on its port an idle block waits, in the one view and in the other. -/
theorem nothingPresentedWaits : Obligations.NothingPresentedWaits := fun _ hrst hseq hwords =>
  ⟨step_of_no_word hrst hseq hwords, (tick_of_idle hrst hseq).trans (acceptNext_of_no_word hwords)⟩

/-- Settles O11: both views give the state held in reset, whose elements are those of the reset state. -/
theorem heldResetRestoresResetValues : Obligations.HeldResetRestoresResetValues := fun s hrst =>
  ⟨holdReset s, step_of_rst hrst, tick_of_rst hrst, holdReset_st s, holdReset_busy s, holdReset_pinScl s,
    holdReset_pinSda s, holdReset_sclMode s, holdReset_sclOut s, holdReset_sdaMode s, holdReset_sdaOut s,
    holdReset_calEn s, holdReset_calLo s, holdReset_calHi s, holdReset_lastCode s, holdReset_res s,
    holdReset_pollCnt s, holdReset_seq s, holdReset_trace s⟩

/-! ### The data line under a high clock (70_reset_and_hazards.md R146) -/

/-- Both lines driven, the clock high: the line state in which a write of the data line is an edge. -/
def clockHigh (d : Level) : Pins := ⟨.out, true, .out, d⟩

/-- What the data line going from `d` to `v` shows while the clock is high. -/
def dataEdge (d v : Level) : List Mark := if d = v then [] else if d = true then [.startEdge] else [.stopEdge]

section
variable {rel : Released} {p : Params}

theorem marksBetween_high {q q' : Pins} (hq : sclLevel rel q = true) (hq' : sclLevel rel q' = true) :
    marksBetween rel q q' = dataEdge (sdaLevel rel q) (sdaLevel rel q') := by
  unfold marksBetween
  rw [hq, hq']
  cases sdaLevel rel q <;> cases sdaLevel rel q' <;> rfl

/-- The first write of a stop condition falls, if at all, under the high clock. -/
theorem marks_traceP_clockHigh (d : Level) : marks rel (clockHigh d) (traceP p) = dataEdge d false ++ [.stopEdge] := by
  cases d <;> rfl

/-- The first write of a start condition rises, if at all, under the high clock. -/
theorem marks_traceS_clockHigh (d : Level) : marks rel (clockHigh d) (traceS p) = dataEdge d true ++ [.startEdge] := by
  cases d <;> rfl

theorem marks_traceS_clockLow (d : Level) : marks rel (clockLow d) (traceS p) = [.clock true, .startEdge] := by
  cases d <;> rfl

/-- A bit cycle entered with the clock high raises no clock, and ends as every bit cycle does. -/
theorem traceBit_clockHigh (d v : Level) :
    marks rel (clockHigh d) (traceBit p v) = dataEdge d v ∧
      pinsAfterAll (clockHigh d) (traceBit p v) = clockLow v := by
  cases d <;> cases v <;> exact ⟨rfl, rfl⟩

/-- The bits of a unit entered with the clock high, before events that show `ms` when the clock is low: the first bit
shows its edge, the others their clocks. -/
theorem marks_bits_clockHigh {evs : List Event} {ms : List Mark} (h : ∀ d, marks rel (clockLow d) evs = ms)
    (data : Byte) (n : Nat) (d : Level) :
    marks rel (clockHigh d) (traceBits p data (n + 1) ++ evs) =
      dataEdge d (data.getLsbD n) ++ marksOfBits data n ++ ms := by
  obtain ⟨hfirst, hlow⟩ := traceBit_clockHigh (rel := rel) (p := p) d (data.getLsbD n)
  obtain ⟨hothers, d', hd'⟩ := traceBits_clocksLow (rel := rel) p data n (data.getLsbD n)
  rw [traceBits_succ, marks_append, marks_append, pinsAfterAll_append, hfirst, hlow, hothers, hd', h]

theorem marks_traceT_clockLow (d : Level) : marks rel (clockLow d) (traceT p) = [.clock p.noackSdaLevel] := by
  simp [traceT, clockLow, pinsAfter, marksBetween_rise, marksBetween_low, sclLevel, sdaLevel]

theorem marks_ackTrace_clockLow {exp r : Level} {evs : List Event} (h : AckTrace p exp evs r) (d : Level) :
    marks rel (clockLow d) evs = [.clock rel.sda] := by
  obtain ⟨hmarks, -⟩ := ackTrace_clocksLow (rel := rel) h d
  exact hmarks

/-- An acknowledgment read entered with the clock high lets go of the data line under it, and raises no clock. -/
theorem marks_ackTrace_clockHigh {exp r : Level} {evs : List Event} (h : AckTrace p exp evs r) (d : Level) :
    marks rel (clockHigh d) evs = dataEdge d rel.sda := by
  obtain ⟨poll, hpoll, rfl⟩ := h
  obtain ⟨-, hpins⟩ := pollTrace_released hpoll (p := ⟨.out, true, .inPu, d⟩) rfl
  simp [traceAck, traceHold, marks_append, marks_pollTrace hpoll, hpins, clockHigh, pinsAfter, marksBetween_high,
    marksBetween_low, sclLevel, sdaLevel]

end

/-! ### The primitives in other line states (70_reset_and_hazards.md R146 (a) to (g)) -/

section
variable {s : State} (hscl : s.sclMode = .out) (hsda : s.sdaMode = .out)
include hscl hsda

theorem pinsOf_eq_clockHigh (hclock : s.sclOut = true) : pinsOf s = clockHigh s.sdaOut := by
  rw [pinsOf, hscl, hsda, hclock, clockHigh]

theorem pinsOf_eq_clockLow (hclock : s.sclOut = false) : pinsOf s = clockLow s.sdaOut := by
  rw [pinsOf, hscl, hsda, hclock, clockLow]

end

section
variable {s : State} (hst : s.st = .ready)
include hst

theorem exec_start : exec .start s = .next (setRes 0 (startCond s)) := next_guarded_of_eq hst

theorem exec_stop : exec .stop s = .next (setRes 0 (stopCond s)) := next_guarded_of_eq hst

theorem exec_xferNoack (data : Byte) (n : Nat) :
    exec (.xferNoack data n) s = .next (setRes 0 (unitNoack data n s)) := next_guarded_of_eq hst

theorem exec_xferAck (data : Byte) (n : Nat) (exp : Level) :
    exec (.xferAck data n exp) s =
      .next (setRes (levelResult (unitAck data n exp s).1) (unitAck data n exp s).2) := next_guarded_of_eq hst

end

/-- A command that is a run of events and then a result emits the events of the run, whatever it writes before them. -/
theorem emits_of_exec {i : Instr} {s s' t : State} {v : BitVec 32} {evs : List Event}
    (hx : exec i s = .next (setRes v t)) (hr : Runs s' t evs) (hs : emitted s' = emitted s) :
    ∃ u, exec i s = .next u ∧ emitted u = emitted s ++ evs :=
  ⟨_, hx, hs ▸ hr.emits⟩

/-- Settles O48: each primitive is its trace, whose first write of the data line is an edge when the clock is high. -/
theorem primitivesInOtherLineStates : Obligations.PrimitivesInOtherLineStates := by
  intro s rel hst hscl hsda
  have high (h : s.sclOut = true) := pinsOf_eq_clockHigh hscl hsda h
  have low (h : s.sclOut = false) := pinsOf_eq_clockLow hscl hsda h
  refine ⟨?_, ?_, fun data n _ hc => ?_, fun exp hc => ?_⟩
  · obtain ⟨t, hx, hemit⟩ := emits_of_exec (exec_stop hst) (runs_stopCond s) rfl
    refine ⟨t, _, hx, hemit, fun hc hd => ?_, fun hc hd => ?_, fun hc => ?_⟩
    · rw [high hc, marks_traceP_clockHigh, hd]
      rfl
    · rw [high hc, marks_traceP_clockHigh, hd]
      rfl
    · rw [low hc]
      obtain ⟨hmarks, -⟩ := traceP_clockLow (rel := rel) s.params s.sdaOut
      exact hmarks
  · obtain ⟨t, hx, hemit⟩ := emits_of_exec (exec_start hst) (runs_startCond s) rfl
    refine ⟨t, _, hx, hemit, fun hc hd => ?_, fun hc hd => ?_, fun hc => ?_⟩
    · rw [high hc, marks_traceS_clockHigh, hd]
      rfl
    · rw [high hc, marks_traceS_clockHigh, hd]
      rfl
    · rw [low hc, marks_traceS_clockLow]
  · obtain ⟨t, hx, hemit⟩ := emits_of_exec (exec_xferNoack hst data (n + 1)) (runs_unitNoack data (n + 1) s) rfl
    rw [high hc]
    exact ⟨t, _, hx, hemit, marks_bits_clockHigh marks_traceT_clockLow data n s.sdaOut⟩
  · obtain ⟨evs, hack, hr⟩ := ackRead_spec exp s
    obtain ⟨t, hx, hemit⟩ := emits_of_exec (exec_ackrd hst) hr rfl
    rw [high hc]
    refine ⟨t, evs, hx, hemit, fun hd hrel => ?_, fun hd => ?_⟩
    · rw [marks_ackTrace_clockHigh hack, hd, hrel]
      rfl
    · rw [marks_ackTrace_clockHigh hack, hd, dataEdge, if_pos rfl]

/-- Settles O53: the unit is its bits and a read, and the read alone lets a high data line fall. -/
theorem acknowledgedPrimitivesInOtherLineStates : Obligations.AcknowledgedPrimitivesInOtherLineStates := by
  intro s rel exp hst hscl hsda hc
  rw [pinsOf_eq_clockHigh hscl hsda hc]
  refine ⟨fun data n _ => ?_, fun hd hrel => ?_⟩
  · obtain ⟨_, ⟨ack, hack, rfl⟩, hr⟩ := unitAck_spec data (n + 1) exp s
    obtain ⟨t, hx, hemit⟩ := emits_of_exec (exec_xferAck hst data (n + 1) exp) hr rfl
    exact ⟨t, _, hx, hemit, marks_bits_clockHigh (marks_ackTrace_clockLow hack) data n s.sdaOut⟩
  · obtain ⟨evs, hack, hr⟩ := ackRead_spec exp s
    obtain ⟨t, hx, hemit⟩ := emits_of_exec (exec_ackrd hst) hr rfl
    refine ⟨t, evs, hx, hemit, ?_⟩
    rw [marks_ackTrace_clockHigh hack, hd, hrel]
    rfl

/-! ### Counts (70_reset_and_hazards.md R152) -/

/-- So many events, so many samples among them, no millisecond wait, and microsecond waits of this sum. -/
def Counted (evs : List Event) (events samples micros : Nat) : Prop :=
  evs.length = events ∧ sampleCount evs = samples ∧ waitedMs evs = 0 ∧ waitedUs evs = micros

theorem Counted.append {xs ys : List Event} {a b c a' b' c' : Nat} (h : Counted xs a b c) (k : Counted ys a' b' c') :
    Counted (xs ++ ys) (a + a') (b + b') (c + c') := by
  obtain ⟨hlen, hsamples, hms, hus⟩ := h
  obtain ⟨klen, ksamples, kms, kus⟩ := k
  refine ⟨by rw [List.length_append, hlen, klen], by rw [sampleCount_append, hsamples, ksamples], ?_, ?_⟩
  · rw [waitedMs, List.map_append, List.sum_append, ← waitedMs, ← waitedMs, hms, kms]
  · rw [waitedUs, List.map_append, List.sum_append, ← waitedUs, ← waitedUs, hus, kus]

section
variable (p : Params)

/-- The hold slots of a start condition. -/
def startMicros : Nat := holdMicros p p.holds.s1 + holdMicros p p.holds.s2 + holdMicros p p.holds.s3

/-- The hold slots of a stop condition. -/
def stopMicros : Nat := holdMicros p p.holds.p1 + holdMicros p p.holds.p2 + holdMicros p p.holds.p3

/-- The hold slots of a bit cycle. -/
def bitMicros : Nat := holdMicros p p.holds.b1 + holdMicros p p.holds.b2 + holdMicros p p.holds.b3

/-- The hold slots of an acknowledgment read, its poll aside. -/
def readMicros : Nat :=
  holdMicros p p.holds.a1 + holdMicros p p.holds.a2 + holdMicros p p.holds.a3 + holdMicros p p.holds.a4

theorem counted_traceS : Counted (traceS p) 7 0 (startMicros p) :=
  ⟨rfl, rfl, rfl, by simp [waitedUs, traceS, traceHold, microsOf, startMicros, Nat.add_assoc]⟩

theorem counted_traceP : Counted (traceP p) 6 0 (stopMicros p) :=
  ⟨rfl, rfl, rfl, by simp [waitedUs, traceP, traceHold, microsOf, stopMicros, Nat.add_assoc]⟩

theorem counted_traceBit (v : Level) : Counted (traceBit p v) 6 0 (bitMicros p) :=
  ⟨rfl, rfl, rfl, by simp [waitedUs, traceBit, traceHold, microsOf, bitMicros, Nat.add_assoc]⟩

theorem counted_traceBits (data : Byte) (n : Nat) : Counted (traceBits p data n) (n * 6) 0 (n * bitMicros p) := by
  induction n with
  | zero => simp [Counted, traceBits, sampleCount, waitedMs, waitedUs]
  | succ n ih =>
    rw [traceBits_succ, Nat.succ_mul, Nat.succ_mul, Nat.add_comm, Nat.add_comm (n * bitMicros p)]
    exact (counted_traceBit p (data.getLsbD n)).append ih

/-- An acknowledgment read whose first sample matches, as does its final one. -/
def traceAckAtOnce (exp : Level) : List Event := traceAck p [.sample .sda exp] exp

theorem counted_traceAckAtOnce (exp : Level) : Counted (traceAckAtOnce p exp) 10 2 (readMicros p) :=
  ⟨rfl, rfl, rfl, by simp [waitedUs, traceAckAtOnce, traceAck, traceHold, microsOf, readMicros, Nat.add_assoc]⟩

/-- The bytes of a frame, each acknowledged at once. -/
def traceBytesAtOnce (exp : Level) (vs : List Byte) : List Event :=
  vs.flatMap fun v => traceBits p v 8 ++ traceAckAtOnce p exp

theorem counted_traceBytesAtOnce (exp : Level) (vs : List Byte) :
    Counted (traceBytesAtOnce p exp vs) (vs.length * 58) (vs.length * 2)
      (vs.length * (8 * bitMicros p + readMicros p)) := by
  induction vs with
  | nil => simp [Counted, traceBytesAtOnce, sampleCount, waitedMs, waitedUs]
  | cons v rest ih =>
    rw [List.length_cons, Nat.succ_mul, Nat.succ_mul, Nat.succ_mul, Nat.add_comm, Nat.add_comm (rest.length * 2),
      Nat.add_comm (rest.length * _)]
    exact ((counted_traceBits p v 8).append (counted_traceAckAtOnce p exp)).append ih

/-- A frame of bytes, each acknowledged at once. -/
def traceFrameAtOnce (exp : Level) (vs : List Byte) : List Event := traceS p ++ traceBytesAtOnce p exp vs ++ traceP p

theorem counted_traceFrameAtOnce (exp : Level) (vs : List Byte) :
    Counted (traceFrameAtOnce p exp vs) (7 + vs.length * 58 + 6) (0 + vs.length * 2 + 0)
      (startMicros p + vs.length * (8 * bitMicros p + readMicros p) + stopMicros p) :=
  ((counted_traceS p).append (counted_traceBytesAtOnce p exp vs)).append (counted_traceP p)

end

/-! ### Bytes acknowledged at once (40_bus_primitives.md R76) -/

section
variable {exp : Level}

/-- A unit whose read finds the expected level twice takes these two levels and no more. -/
theorem unitAck_at_once {s : State} {ls : List Level} (data : Byte) (n : Nat) (hmax : 1 ≤ s.params.ackPollMax)
    (hlevels : s.levels = exp :: exp :: ls) :
    Runs s (unitAck data n exp s).2 (traceBits s.params data n ++ traceAckAtOnce s.params exp) ∧
      (unitAck data n exp s).2.levels = ls := by
  have bits := runs_unitBits data n s
  obtain ⟨hsame, -⟩ := environment_of_runs bits (sampleCount_traceBits s.params data n)
  rw [unitAck]
  generalize sendBits (unitBits data n) s = u at bits hsame
  rw [← bits.params] at hmax
  obtain ⟨hpoll, -, hleft⟩ := pollPhase_of_match (s := releasePhase u) (k := 0) hmax (hsame.trans hlevels)
  obtain ⟨hlevel, hrest⟩ := ackRead_of_levels hleft
  have read := runs_ackRead hpoll
  rw [hlevel, bits.params] at read
  exact ⟨bits.trans read, hrest⟩

theorem sendBytesExp_at_once {s : State} {ls : List Level} (vs : List Byte) (hmax : 1 ≤ s.params.ackPollMax)
    (hlevels : s.levels = List.replicate (vs.length * 2) exp ++ ls) :
    Runs s (sendBytesExp vs exp s) (traceBytesAtOnce s.params exp vs) := by
  induction vs generalizing s with
  | nil => exact Runs.refl s
  | cons v rest ih =>
    rw [List.length_cons, Nat.succ_mul] at hlevels
    obtain ⟨first, hleft⟩ := unitAck_at_once v 8 hmax hlevels
    have others := ih (s := (unitAck v 8 exp s).2) (by rwa [first.params]) hleft
    rw [first.params] at others
    exact first.trans others

theorem bytesFrame_at_once {s : State} {ls : List Level} (vs : List Byte) (hmax : 1 ≤ s.params.ackPollMax)
    (hlevels : s.levels = List.replicate (vs.length * 2) exp ++ ls) :
    Runs s (bytesFrame vs exp s) (traceFrameAtOnce s.params exp vs) := by
  have start := runs_startCond s
  obtain ⟨hsame, -⟩ := environment_of_runs start rfl
  rw [bytesFrame]
  generalize startCond s = u at start hsame
  rw [← start.params] at hmax
  have bytes := sendBytesExp_at_once vs hmax (hsame.trans hlevels)
  have stop := runs_stopCond (sendBytesExp vs exp u)
  rw [bytes.params, start.params] at stop
  rw [start.params] at bytes
  exact (start.trans bytes).trans stop

end

/-- Settles O51: the write frame is a frame of four bytes, each acknowledged at once. -/
theorem acknowledgedWriteFrameCounts : Obligations.AcknowledgedWriteFrameCounts := by
  intro s code rest hst hcode hmax hlevels
  have hx := exec_wrcode_in_range hst hcode
  rw [writeCode, writeFrame_eq] at hx
  obtain ⟨t, hx, hemit⟩ := emits_of_exec hx (bytesFrame_at_once _ hmax hlevels) rfl
  exact ⟨t, _, hx, hemit, counted_traceFrameAtOnce s.params s.params.ackLevel _⟩

end Sys2Proof.Proofs
end
